-- ==== Sys2Proof/Word.lean ====
section
/-! DEFINITION. The data types of 10_state.md sections 2 and 3: the packed color and the channel as bit vectors (R14), the
3-bit operation select (R38), and the request and the response as tuples of port values (R24, R37). -/

namespace Sys2Proof

/-- A packed color, and the value on any operand or result port: 32 bits (R14, R24). -/
abbrev Word := BitVec 32

/-- One channel of a packed color: an unsigned 8-bit value (R14, R17). -/
abbrev Channel := BitVec 8

/-- The value on the operation-select port `op`: 3 bits (R24, R38). -/
abbrev OpCode := BitVec 3

/-- A request `(op, x0, x1, x2, x3)`: the values on the five input ports, taken whole (R31, R37). -/
structure Request where
  op : OpCode
  x0 : Word
  x1 : Word
  x2 : Word
  x3 : Word
  deriving DecidableEq, Repr, Inhabited

/-- A response `(y0, y1, y2, y3)`: the values on the four result ports (R24, R37). -/
structure Response where
  y0 : Word
  y1 : Word
  y2 : Word
  y3 : Word
  deriving DecidableEq, Repr, Inhabited

end Sys2Proof
end

