-- ==== Sys2Proof/Config.lean ====
section
/-! DEFINITION. The implementation parameters: the constants the source fixes (00_scope.md R5), the parameter it leaves open
(`LATENCY`, R6), and the free values of 93_implementation_defined.md U1 and U3. -/

namespace Sys2Proof

/-- `OFF_A`: bit offset of alpha (R5). -/
abbrev Config.offA : Nat := 24

/-- `OFF_R`: bit offset of red (R5). -/
abbrev Config.offR : Nat := 16

/-- `OFF_G`: bit offset of green (R5). -/
abbrev Config.offG : Nat := 8

/-- `OFF_B`: bit offset of blue (R5). -/
abbrev Config.offB : Nat := 0

/-- `CH`: width of a channel (R5). -/
abbrev Config.channelBits : Nat := 8

/-- `CH_MASK`: mask applied to a channel operand (R5). -/
abbrev Config.channelMask : Word := 0x000000FF#32

/-- `SAT_MAX`: upper saturation bound (R5). -/
abbrev Config.satMax : Int := 255

/-- `SAT_MIN`: lower saturation bound (R5). -/
abbrev Config.satMin : Int := 0

/-- `MUL_DIV`: divisor of the multiply (R5). -/
abbrev Config.mulDivisor : Int := 255

/-- `LATENCY` of the machine `Sys2Proof.core`: the spec's default, combinational (R6, R90).
The pipelined implementation of Machine/Pipeline.lean takes its own latency as an argument. -/
abbrev Config.latency : Nat := 0

/-- FREE VALUE (U3, R86, log 9): the word on result port `port` of a pipelined implementation in a cycle in which no
response is due. No body: nothing can be proved of its value. -/
opaque Config.startupWord (cycle port : Nat) : Word

/-- FREE VALUE (U1, log 4): what the result ports carry while `op = 7` stands on the input ports ("An implementation may drive
anything on the result ports"), for the request and the response that stood there before and the request presented. No body. -/
opaque Config.reservedResponse (before : Request) (shown : Response) (presented : Request) : Response

end Sys2Proof
end

