-- ==== Sys2Proof/Syntax.lean ====
section
/-! DEFINITION. The instructions: one constructor per row of spec/opcode_table.json. -/

namespace Sys2Proof

/-- A decoded request (R37 to R39): the operation, with the values of the operand ports it uses, in port order.
A packed color operand and a channel operand are both whole 32-bit port values (R40). -/
inductive Instr where
  /-- EXPLODE, `op = 0` (R48). -/
  | explode (color : Word)
  /-- IMPLODE, `op = 1` (R49): four channel operands. -/
  | implode (a r g b : Word)
  /-- REVERSE, `op = 2` (R53). -/
  | reverse (color : Word)
  /-- SETALPHA, `op = 3` (R56): `alpha` is a channel operand. -/
  | setalpha (color alpha : Word)
  /-- ADD, `op = 4` (R61). -/
  | add (color1 color2 : Word)
  /-- SUB, `op = 5` (R62): minuend, subtrahend. -/
  | sub (color1 color2 : Word)
  /-- MUL, `op = 6` (R63). -/
  | mul (color1 color2 : Word)
  /-- The reserved code `op = 7` (R42): no operation. -/
  | reserved
  deriving DecidableEq, Repr

end Sys2Proof
end

