-- ==== Sys2Proof/WellFormed.lean ====
section
/-! DEFINITION. Which requests a host may present (R42, R92): `op` in 0..6. Every operand value is allowed (R15, R40), so the
one check is the operation code. -/

namespace Sys2Proof

/-- A decoded request is well formed when it selects one of the seven operations (R42). -/
def Instr.wellFormed : Instr → Bool
  | .explode _ => true
  | .implode _ _ _ _ => true
  | .reverse _ => true
  | .setalpha _ _ => true
  | .add _ _ => true
  | .sub _ _ => true
  | .mul _ _ => true
  | .reserved => false

/-- The host's duty on the port `op`, "keep `op` in 0..6" (R42, R92). -/
abbrev Request.defined (r : Request) : Prop := r.op ≠ 7#3

end Sys2Proof
end

