-- ==== Sys2Proof/Decode.lean ====
section
/-! DEFINITION. The request format and the operation codes of 30_encoding.md: the 131-bit request string (R37), the decoder
(R38, R39, R44), the encoder written from the same tables, and the response string (R37). -/

namespace Sys2Proof

/-- The request as the bit string `op[2:0] ++ x3 ++ x2 ++ x1 ++ x0`, `op` most significant (R37). -/
def Request.toBits (r : Request) : BitVec 131 :=
  r.op ++ r.x3 ++ r.x2 ++ r.x1 ++ r.x0

/-- The request a 131-bit string stands for; every string is one (R37). -/
def Request.ofBits (v : BitVec 131) : Request where
  op := v.extractLsb' 128 3
  x0 := v.extractLsb' 0 32
  x1 := v.extractLsb' 32 32
  x2 := v.extractLsb' 64 32
  x3 := v.extractLsb' 96 32

/-- The response as the bit string `y3 ++ y2 ++ y1 ++ y0` (R37). -/
def Response.toBits (y : Response) : BitVec 128 :=
  y.y3 ++ y.y2 ++ y.y1 ++ y.y0

/-- The operation the value of `op` selects (R38), with the operand ports it uses in signature order (R39).
It reads `op` and nothing else to know the operation (R44), and drops the unused operand ports (R43). -/
def decode (r : Request) : Instr :=
  match r.op.toNat with
  | 0 => .explode r.x0
  | 1 => .implode r.x0 r.x1 r.x2 r.x3
  | 2 => .reverse r.x0
  | 3 => .setalpha r.x0 r.x1
  | 4 => .add r.x0 r.x1
  | 5 => .sub r.x0 r.x1
  | 6 => .mul r.x0 r.x1
  | _ => .reserved

/-- The decoder on request strings, total on all of them (R37). -/
def decodeBits (v : BitVec 131) : Instr :=
  decode (Request.ofBits v)

/-- Why a number is rejected as the string of a defined request. -/
inductive DecodeError where
  /-- The value needs more than the 131 bits of a request string (R37). Safe. -/
  | tooLong
  /-- The top three bits are `111`, the reserved code (R37, R42). Safe. -/
  | reservedOp
  deriving DecidableEq, Repr

/-- The decoder on a number read as a request string (the hexadecimal strings of 95_test_vectors.md section 3), rejecting by
name what is not the string of a defined request (R37, R42). -/
def decodeString (v : Nat) : Except DecodeError Instr :=
  if v < 2 ^ 131 then
    let i := decodeBits (BitVec.ofNat 131 v)
    if i.wellFormed then .ok i else .error .reservedOp
  else .error .tooLong

/-- The operation code of an instruction (R38). -/
def Instr.opcode : Instr → OpCode
  | .explode _ => 0#3
  | .implode _ _ _ _ => 1#3
  | .reverse _ => 2#3
  | .setalpha _ _ => 3#3
  | .add _ _ => 4#3
  | .sub _ _ => 5#3
  | .mul _ _ => 6#3
  | .reserved => 7#3

/-- The request of an instruction: operands on the ports R39 gives them.
DESIGN CHOICE (log 7): an unused operand port, whose value R43 leaves to the host, is shown as 0. -/
def encodeRequest (i : Instr) : Request :=
  match i with
  | .explode c => ⟨i.opcode, c, 0#32, 0#32, 0#32⟩
  | .implode a r g b => ⟨i.opcode, a, r, g, b⟩
  | .reverse c => ⟨i.opcode, c, 0#32, 0#32, 0#32⟩
  | .setalpha c al => ⟨i.opcode, c, al, 0#32, 0#32⟩
  | .add p q => ⟨i.opcode, p, q, 0#32, 0#32⟩
  | .sub p q => ⟨i.opcode, p, q, 0#32, 0#32⟩
  | .mul p q => ⟨i.opcode, p, q, 0#32, 0#32⟩
  | .reserved => ⟨i.opcode, 0#32, 0#32, 0#32, 0#32⟩

/-- The request string of an instruction (R37). -/
def encode (i : Instr) : BitVec 131 :=
  (encodeRequest i).toBits

/-- Whether operand port `x<k>` is used by the operation that `op` selects: the table of R39.
The reserved code selects no operation and uses none. -/
def usesPort (op : OpCode) (k : Fin 4) : Bool :=
  match op.toNat with
  | 0 => k.val < 1
  | 1 => true
  | 2 => k.val < 1
  | 3 => k.val < 2
  | 4 => k.val < 2
  | 5 => k.val < 2
  | 6 => k.val < 2
  | _ => false

/-- Whether operand port `x<k>` carries a channel operand, of which only bits 7..0 count (R39, R40). -/
def isChannelOperand (op : OpCode) (k : Fin 4) : Bool :=
  match op.toNat with
  | 1 => true
  | 3 => k.val == 1
  | _ => false

/-- The value on operand port `x<k>`, the primitive `x[k]` of R8. -/
def Request.x (r : Request) (k : Fin 4) : Word :=
  match k with
  | 0 => r.x0
  | 1 => r.x1
  | 2 => r.x2
  | 3 => r.x3

/-- The request an opcode-table word stands for: the table numbers the bits of the port `op` only (bit 0 is `op[0]`), so the
operand ports carry zeros (log 8). -/
def tableRequest (w : Nat) : Request :=
  ⟨BitVec.ofNat 3 w, 0#32, 0#32, 0#32, 0#32⟩

/-- The instruction of an opcode-table word of `nbits` bits. DESIGN CHOICE (log 8): `op` has three bits, so a word with any
bit above bit 2 set is no value of it and is refused. -/
def decodeTableWord (nbits w : Nat) : Option Instr :=
  if w < 8 ∧ w < 2 ^ nbits then some (decode (tableRequest w)) else none

end Sys2Proof
end

