-- ==== Sys2Proof/Machine/State.lean ====
section
/-! DEFINITION. The machine's state. The FCU itself holds none (10_state.md R13): State is the value on each of the nine ports
of the complete port list R24, so that a step can show a request and its response (log 1). No memory, registers, flags, pc,
modes or saved registers exist (R18 to R23, R27, R79, R81). -/

namespace Sys2Proof.Machine

/-- The values on the nine ports of the FCU (R24). -/
structure State where
  /-- operation select, input (R38) -/
  op : OpCode
  /-- operand 0, input -/
  x0 : Word
  /-- operand 1, input -/
  x1 : Word
  /-- operand 2, input -/
  x2 : Word
  /-- operand 3, input -/
  x3 : Word
  /-- result 0, output -/
  y0 : Word
  /-- result 1, output -/
  y1 : Word
  /-- result 2, output -/
  y2 : Word
  /-- result 3, output -/
  y3 : Word
  deriving DecidableEq, Repr

/-- The reasons to fault: none. "The FCU raises no synchronous exception" (R73), and no behaviour of it is a fault or a stuck
state (93_implementation_defined.md section 1), so the type has no constructor (log 5). -/
inductive Fault : Type
  deriving DecidableEq, Repr

/-- The reasons to refuse. -/
inductive Refusal where
  /-- An instruction without a meaning yet: raised by an arm of `exec` only (no arm does). Safe. -/
  | notModelled (mnemonic : String)
  /-- The reserved code `op = 7`: raised by the meaning of RESERVED, as R42 and U1 ask ("a model must refuse such a request").
  Safe: nothing can be proved of a run that holds such a request. -/
  | reservedOp
  deriving DecidableEq, Repr

/-- The request on the input ports (R37). -/
def State.request (s : State) : Request := ⟨s.op, s.x0, s.x1, s.x2, s.x3⟩

/-- The response on the result ports (R37). -/
def State.response (s : State) : Response := ⟨s.y0, s.y1, s.y2, s.y3⟩

/-- The ports after reset or power-up. The FCU has no state, hence no reset value (R25): the result ports are the response to
the input ports (R26). DESIGN CHOICE (log 2): what the host drives at that time is not stated; here it drives all zeros, the
request `EXPLODE 0`, whose response is all zeros. -/
def State.reset : State := ⟨0#3, 0#32, 0#32, 0#32, 0#32, 0#32, 0#32, 0#32, 0#32⟩

end Sys2Proof.Machine
end

