-- ==== Sys2Proof/Machine/Ops.lean ====
section
/-! DEFINITION. The named operations over the ports (R8, R24): the host drives the input ports, the FCU drives the result
ports. There is no memory to read or write (R27), and no exception to take or to return from (R73, R79, R80), so no such
operation is written. -/

namespace Sys2Proof.Machine

/-- The five input ports carry one whole request (R31, R92). The bare operation on the ports: a host's presentation, in which the
result ports follow at once (R26), is `State.present` of Present.lean. -/
def State.withInputs (s : State) (r : Request) : State :=
  { s with op := r.op, x0 := r.x0, x1 := r.x1, x2 := r.x2, x3 := r.x3 }

/-- The FCU drives all four result ports, each once: the primitive `y[i] <- v` of R8. No input port changes (R16). -/
def State.drive (s : State) (y : Response) : State :=
  { s with y0 := y.y0, y1 := y.y1, y2 := y.y2, y3 := y.y3 }

/-- The response of an operation whose one result is the word `c`: `c` on `y0`, zero on the unused result ports (R41). -/
def colorResponse (c : Word) : Response := ⟨c, 0#32, 0#32, 0#32⟩

/-- The response of an operation whose four results are channels: each zero-extended to 32 bits, in signature order (R41). -/
def channelResponse (a r g b : Channel) : Response :=
  ⟨a.setWidth 32, r.setWidth 32, g.setWidth 32, b.setWidth 32⟩

/-- Completion of an operation: the response appears on the result ports and nothing else changes (R16, R20, R73). -/
def answer (y : Response) (s : State) : Host.Outcome State Fault Refusal :=
  .next (s.drive y)

end Sys2Proof.Machine
end

