-- ==== Sys2Proof/Machine/Operands.lean ====
section
/-! DEFINITION. The operand forms of R40 and the helper functions of R9: the fields of a packed color, the low eight bits of a
channel operand, packing, and the values a host integer has on a port (R10, R17). -/

namespace Sys2Proof.Machine

/-- A packed color operand: the whole value of its port, used as is (R40). -/
def packedColor (x : Word) : Word := x

/-- `lo8`: a channel operand is the low eight bits of its port, the other bits ignored (R9, R40). -/
def lo8 (x : Word) : Channel := (x &&& Config.channelMask).setWidth 8

/-- `ch_a`: the alpha field, bits 31..24 (R9, R14). -/
def chA (c : Word) : Channel := c.extractLsb' Config.offA Config.channelBits

/-- `ch_r`: the red field, bits 23..16 (R9, R14). -/
def chR (c : Word) : Channel := c.extractLsb' Config.offR Config.channelBits

/-- `ch_g`: the green field, bits 15..8 (R9, R14). -/
def chG (c : Word) : Channel := c.extractLsb' Config.offG Config.channelBits

/-- `ch_b`: the blue field, bits 7..0 (R9, R14). -/
def chB (c : Word) : Channel := c.extractLsb' Config.offB Config.channelBits

/-- `pack`: four channels to one word, alpha most significant (R9). -/
def pack (a r g b : Channel) : Word := a ++ r ++ g ++ b

/-- The value on a port that a host integer of any size or sign denotes: its value modulo 2^32 (R10, R17, R40; log 12). -/
def hostWord (n : Int) : Word := BitVec.ofInt 32 n

end Sys2Proof.Machine
end

