-- ==== Sys2Proof/Machine/Lanes.lean ====
section
/-! DEFINITION. The lane framework of 42_saturating_arithmetic.md: the clamps of R9, the three scalar functions on channels
(R61 to R63), computed exactly on mathematical integers (R7, R66), and their use on four independent lanes (R59). -/

namespace Sys2Proof.Machine

/-- `sat_hi` (R9). -/
def satHi (n : Int) : Int := min n Config.satMax

/-- `sat_lo` (R9). -/
def satLo (n : Int) : Int := max n Config.satMin

/-- `clamp` (R9). -/
def clamp (n : Int) : Int := min (max n Config.satMin) Config.satMax

/-- The exact value of a channel, 0..255 (R66). -/
def chanInt (u : Channel) : Int := u.toNat

/-- `add8(u, v) = min(u + v, 255)` (R61). -/
def add8 (u v : Channel) : Channel := BitVec.ofInt 8 (satHi (chanInt u + chanInt v))

/-- `sub8(u, v) = max(u - v, 0)` (R62). -/
def sub8 (u v : Channel) : Channel := BitVec.ofInt 8 (satLo (chanInt u - chanInt v))

/-- `mul8(u, v) = clamp((u * v) div 255)`, `div` rounding toward zero (R7, R63, R64). -/
def mul8 (u v : Channel) : Channel :=
  BitVec.ofInt 8 (clamp ((chanInt u * chanInt v).tdiv Config.mulDivisor))

/-- `lanes(f, p, q)`: the same `f` on each pair of corresponding channels, repacked (R59). -/
def lanes (f : Channel → Channel → Channel) (p q : Word) : Word :=
  pack (f (chA p) (chA q)) (f (chR p) (chR q)) (f (chG p) (chG q)) (f (chB p) (chB q))

end Sys2Proof.Machine
end

