-- ==== Sys2Proof/Machine/Arithmetic.lean ====
section
/-! DEFINITION. ADD, SUB and MUL (42_saturating_arithmetic.md). -/

namespace Sys2Proof.Machine

/-- ADD (R61): per-channel saturating addition. -/
def execAdd (color1 color2 : Word) (s : State) : Host.Outcome State Fault Refusal :=
  answer (colorResponse (lanes add8 (packedColor color1) (packedColor color2))) s

/-- SUB (R62, 90_conflicts.md C1): per-channel saturating subtraction, first operand minus second. -/
def execSub (color1 color2 : Word) (s : State) : Host.Outcome State Fault Refusal :=
  answer (colorResponse (lanes sub8 (packedColor color1) (packedColor color2))) s

/-- MUL (R63): per-channel product divided by 255, rounded toward zero. -/
def execMul (color1 color2 : Word) (s : State) : Host.Outcome State Fault Refusal :=
  answer (colorResponse (lanes mul8 (packedColor color1) (packedColor color2))) s

end Sys2Proof.Machine
end

