-- ==== Sys2Proof/Machine/ExplodeImplode.lean ====
section
/-! DEFINITION. EXPLODE and IMPLODE (40_explode_implode.md). -/

namespace Sys2Proof.Machine

/-- The value IMPLODE computes, by the masks and shifts of R49. -/
def implodeWord (a r g b : Word) : Word :=
  ((a &&& Config.channelMask) <<< Config.offA) ||| ((r &&& Config.channelMask) <<< Config.offR)
    ||| ((g &&& Config.channelMask) <<< Config.offG) ||| (b &&& Config.channelMask)

/-- EXPLODE (R48): the four channels of `color` on `y0`..`y3`. -/
def execExplode (color : Word) (s : State) : Host.Outcome State Fault Refusal :=
  let c := packedColor color
  answer (channelResponse (chA c) (chR c) (chG c) (chB c)) s

/-- IMPLODE (R49): four channel operands, each masked to 8 bits, packed into `y0`. -/
def execImplode (a r g b : Word) (s : State) : Host.Outcome State Fault Refusal :=
  answer (colorResponse (implodeWord a r g b)) s

end Sys2Proof.Machine
end

