-- ==== Sys2Proof/Machine/Flags.lean ====
section
/-! DEFINITION. Flag computations: there are none. "No operation sets a carry, overflow, saturation, zero or sign flag, and
there is no status output" (10_state.md R20), so this file declares nothing; saturation itself is in Lanes.lean. -/
end

