-- ==== Sys2Proof/Machine/Reserved.lean ====
section
/-! DEFINITION. The reserved operation code (30_encoding.md R42). -/

namespace Sys2Proof.Machine

/-- RESERVED, `op = 7` (R42, R76, U1): "A model must *refuse* such a request". -/
def execReserved (_s : State) : Host.Outcome State Fault Refusal :=
  .refused .reservedOp

end Sys2Proof.Machine
end

