-- ==== Sys2Proof/Machine/ReverseSetAlpha.lean ====
section
/-! DEFINITION. REVERSE and SETALPHA (41_reverse_setalpha.md). -/

namespace Sys2Proof.Machine

/-- The value REVERSE computes: the four bytes in the opposite order (R53). -/
def reverseWord (c : Word) : Word := pack (chB c) (chG c) (chR c) (chA c)

/-- The value SETALPHA computes, by the masked bit-clear-and-or of R56. -/
def setAlphaWord (c alpha : Word) : Word :=
  (c &&& 0x00FFFFFF#32) ||| ((alpha &&& Config.channelMask) <<< Config.offA)

/-- REVERSE (R53). -/
def execReverse (color : Word) (s : State) : Host.Outcome State Fault Refusal :=
  answer (colorResponse (reverseWord (packedColor color))) s

/-- SETALPHA (R56). -/
def execSetalpha (color alpha : Word) (s : State) : Host.Outcome State Fault Refusal :=
  answer (colorResponse (setAlphaWord (packedColor color) alpha)) s

end Sys2Proof.Machine
end

