-- ==== Sys2Proof/Machine/Dispatch.lean ====
section
/-! DEFINITION. The dispatch: one arm per constructor of Instr, each a direct call of its meaning. -/

namespace Sys2Proof.Machine

def exec (i : Instr) (s : State) : Host.Outcome State Fault Refusal :=
  match i with
  -- 40_explode_implode.md
  | .explode color => Sys2Proof.Machine.execExplode color s
  | .implode a r g b => Sys2Proof.Machine.execImplode a r g b s
  -- 41_reverse_setalpha.md
  | .reverse color => Sys2Proof.Machine.execReverse color s
  | .setalpha color alpha => Sys2Proof.Machine.execSetalpha color alpha s
  -- 42_saturating_arithmetic.md
  | .add color1 color2 => Sys2Proof.Machine.execAdd color1 color2 s
  | .sub color1 color2 => Sys2Proof.Machine.execSub color1 color2 s
  | .mul color1 color2 => Sys2Proof.Machine.execMul color1 color2 s
  -- 30_encoding.md R42
  | .reserved => Sys2Proof.Machine.execReserved s

end Sys2Proof.Machine
end

