-- ==== Sys2Proof/Machine/Present.lean ====
section
/-! DEFINITION. The host's one act on the unit (70_reset_and_hazards.md R92): it drives a request on the input ports, and the
result ports, which "are at all times the function `exec` of the input ports" (10_state.md R26), follow in the same act. -/

namespace Sys2Proof.Machine

/-- The host presents a request (R31, R92): the input ports carry it and the result ports carry its response (R26). For the
reserved code there is no response, and the result ports carry a free value (R42, U1, log 4). -/
def State.present (s : State) (r : Request) : State :=
  match exec (decode r) (s.withInputs r) with
  | .next t => t
  | .fault f => nomatch f
  | .refused _ => (s.withInputs r).drive (Config.reservedResponse s.request s.response r)

end Sys2Proof.Machine
end

