-- ==== Sys2Proof/Machine/Step.lean ====
section
/-! DEFINITION. One step: the request on the input ports is decoded and answered on the result ports (R13, R26, R31). A
presented request has its response on the result ports already, so a step there only confirms it (log 3). -/

namespace Sys2Proof.Machine

/-- One evaluation of the FCU: the response to the request on the input ports appears on the result ports (R13, R26).
Nothing advances, and the input ports keep what the host drives on them (R16, R19). -/
def step (s : State) : Host.Outcome State Fault Refusal :=
  exec (decode s.request) s

/-- `s` with the request of an opcode-table word on its input ports, where `step` takes its next request: `op` is the word,
the operands are zero (log 6, log 8), and the result ports follow (R26). `nbits` does not matter: the port `op` takes the three bits the table gives it. -/
def State.withFetchWord (s : State) (_nbits w : Nat) : State :=
  s.present (tableRequest w)

end Sys2Proof.Machine
end

