-- ==== Sys2Proof/Machine/Serve.lean ====
section
/-! DEFINITION. The host's use of the unit beyond one step: the unit as a function of the request (R13), a list of requests
issued back to back (R33, R89), and several instances each with its own request (R35). -/

namespace Sys2Proof.Machine

/-- The response a step leaves, if it answers. -/
def outcomeResponse (o : Host.Outcome State Fault Refusal) : Option Response :=
  match o with
  | .next t => some t.response
  | .fault f => nomatch f
  | .refused _ => none

/-- The whole FCU as the function from requests to responses that R13 calls `exec`; `none` where the request is refused (R42). -/
def respond (r : Request) : Option Response :=
  outcomeResponse (step (State.reset.present r))

/-- The host issues the requests in order on one instance, reading each response before it presents the next request (R89). -/
def serve (s : State) (rs : List Request) : Host.Outcome (State × List Response) Fault Refusal :=
  match rs with
  | [] => .next (s, [])
  | r :: rest =>
    match step (s.present r) with
    | .fault f => nomatch f
    | .refused q => .refused q
    | .next t =>
      match serve t rest with
      | .fault f => nomatch f
      | .refused q => .refused q
      | .next (u, ys) => .next (u, t.response :: ys)

/-- Several instances, each with the request its host presents to it, evaluated together; they share nothing (R35).
The instances are refused together if one of the requests is (log 11). -/
def serveInstances (units : List (State × Request)) : Host.Outcome (List State) Fault Refusal :=
  match units with
  | [] => .next []
  | (s, r) :: rest =>
    match step (s.present r) with
    | .fault f => nomatch f
    | .refused q => .refused q
    | .next t =>
      match serveInstances rest with
      | .fault f => nomatch f
      | .refused q => .refused q
      | .next ts => .next (t :: ts)

end Sys2Proof.Machine
end

