-- ==== Sys2Proof/Machine/Sequence.lean ====
section
/-! DEFINITION. Request sequences (30_encoding.md R45): the abstract form of `<results> = <MNEMONIC> <operands>`, one request a
line, and a host that issues the lines in order and carries values from result ports to later operand ports (R93).
The FCU keeps nothing between lines (R13); what the lines bind is the host's. -/

namespace Sys2Proof.Machine

/-- The seven mnemonics of a line (R38, R45). -/
inductive Operation where
  | explode
  | implode
  | reverse
  | setalpha
  | add
  | sub
  | mul
  deriving DecidableEq, Repr

/-- The `op` value of a mnemonic (R38). -/
def operationCode (o : Operation) : OpCode :=
  match o with
  | .explode => 0#3
  | .implode => 1#3
  | .reverse => 2#3
  | .setalpha => 3#3
  | .add => 4#3
  | .sub => 5#3
  | .mul => 6#3

/-- How many operand ports the operation uses (R39). -/
def operandCount (o : Operation) : Nat :=
  match o with
  | .explode => 1
  | .implode => 4
  | .reverse => 1
  | .setalpha => 2
  | .add => 2
  | .sub => 2
  | .mul => 2

/-- How many names a line binds: "four names for EXPLODE, one for every other operation" (R45). -/
def resultCount (o : Operation) : Nat :=
  match o with
  | .explode => 4
  | .implode => 1
  | .reverse => 1
  | .setalpha => 1
  | .add => 1
  | .sub => 1
  | .mul => 1

/-- A name of a request sequence, as its characters. -/
abbrev Name := List Char

/-- An operand of a line: a literal or a name bound by an earlier line (R45). -/
inductive Operand where
  | lit (n : Nat)
  | name (x : Name)
  deriving DecidableEq, Repr

/-- One line of a request sequence (R45). -/
structure Line where
  results : List Name
  operation : Operation
  operands : List Operand
  deriving DecidableEq, Repr

/-- The names bound so far, each to a 32-bit value, in the order of their binding (R45). -/
abbrev Env := List (Name × Word)

/-- The names an environment binds. -/
def boundNames (env : Env) : List Name := env.map Prod.fst

/-- Why a sequence is no request sequence of R45, or why it stops. -/
inductive SequenceStop where
  /-- an operand is a name no earlier line bound -/
  | unboundName (x : Name)
  /-- a name is bound twice; R45 binds a name once -/
  | boundTwice (x : Name)
  /-- the line has not the operands the operation uses -/
  | operandCount
  /-- the line has not the results the operation drives -/
  | resultCount
  /-- the text is not in the form of R45 -/
  | badText
  /-- the FCU refused the request -/
  | refused (r : Refusal)
  deriving DecidableEq, Repr

/-- The value of an operand: a literal modulo 2^32 (R40), or the value its name is bound to. -/
def operandValue (env : Env) (o : Operand) : Except SequenceStop Word :=
  match o with
  | .lit n => .ok (hostWord n)
  | .name x =>
    match env.lookup x with
    | some v => .ok v
    | none => .error (.unboundName x)

/-- The values of a list of operands, in order. -/
def operandValues (env : Env) (os : List Operand) : Except SequenceStop (List Word) :=
  match os with
  | [] => .ok []
  | o :: rest =>
    match operandValue env o with
    | .error e => .error e
    | .ok v =>
      match operandValues env rest with
      | .error e => .error e
      | .ok vs => .ok (v :: vs)

/-- Operands on the ports in port order, `x0` first; the ports not written carry 0 (R45). -/
def lineRequest (o : Operation) (vs : List Word) : Request :=
  ⟨operationCode o, vs.getD 0 0#32, vs.getD 1 0#32, vs.getD 2 0#32, vs.getD 3 0#32⟩

/-- The used result ports of an operation in port order, `y0` first (R45). -/
def usedResults (o : Operation) (y : Response) : List Word :=
  [y.y0, y.y1, y.y2, y.y3].take (resultCount o)

/-- The first of the names that is bound already, or stands twice in the list itself. -/
def firstRebound (bound names : List Name) : Option Name :=
  match names with
  | [] => none
  | x :: rest => if bound.contains x || rest.contains x then some x else firstRebound bound rest

/-- One line: its operands are put on the ports, the FCU answers, and the results are bound (R45). -/
def runLine (s : State) (env : Env) (l : Line) : Except SequenceStop (State × Env) :=
  if l.operands.length = operandCount l.operation then
    if l.results.length = resultCount l.operation then
      match firstRebound (boundNames env) l.results with
      | some x => .error (.boundTwice x)
      | none =>
        match operandValues env l.operands with
        | .error e => .error e
        | .ok vs =>
          match step (s.present (lineRequest l.operation vs)) with
          | .fault f => nomatch f
          | .refused q => .error (.refused q)
          | .next t => .ok (t, env ++ l.results.zip (usedResults l.operation t.response))
    else .error .resultCount
  else .error .operandCount

/-- A request sequence, from the host's inputs `env`; its end state is the set of names bound (R93). -/
def runSequence (s : State) (env : Env) (ls : List Line) : Except SequenceStop (State × Env) :=
  match ls with
  | [] => .ok (s, env)
  | l :: rest =>
    match runLine s env l with
    | .error e => .error e
    | .ok (t, env') => runSequence t env' rest

/-- Whether an operand can be read when the names `bound` are bound. -/
def operandBound (bound : List Name) (o : Operand) : Bool :=
  match o with
  | .lit _ => true
  | .name x => bound.contains x

/-- Whether a line is one of R45 when the names `bound` are bound: operands and results as many as the operation has, the
operands bound by earlier lines, the results bound once. -/
def lineWellFormed (bound : List Name) (l : Line) : Bool :=
  l.operands.length == operandCount l.operation && l.results.length == resultCount l.operation
    && l.operands.all (operandBound bound) && (firstRebound bound l.results).isNone

/-- Whether the lines are a request sequence of R45 over the host inputs `bound`. -/
def sequenceWellFormed (bound : List Name) (ls : List Line) : Bool :=
  match ls with
  | [] => true
  | l :: rest => lineWellFormed bound l && sequenceWellFormed (bound ++ l.results) rest

end Sys2Proof.Machine
end

