-- ==== Sys2Proof/Machine/Notation.lean ====
section
/-! DEFINITION. The text of a request sequence (30_encoding.md R45), as a list of characters: `<results> = <MNEMONIC> <operands>`,
names and operands separated by commas, literals `0x..`, `0b..` or decimal (R7), comments from `--` to the end of the line.
Log 10 names what R45 leaves to the reader of a text. -/

namespace Sys2Proof.Machine

/-- The pieces of a line: a word of letters and digits, a comma, or an equals sign. -/
inductive Token where
  | word (cs : List Char)
  | comma
  | equals
  deriving DecidableEq, Repr

/-- The word read so far (kept last character first) as a token, if there is one. -/
def pendingWord (acc : List Char) : List Token :=
  match acc with
  | [] => []
  | c :: cs => [.word (c :: cs).reverse]

/-- A line cut into tokens; `--` ends it (R45). -/
def tokens (acc : List Char) (line : List Char) : List Token :=
  match line with
  | [] => pendingWord acc
  | '-' :: '-' :: _ => pendingWord acc
  | c :: rest =>
    if c = ' ' then pendingWord acc ++ tokens [] rest
    else if c = ',' then pendingWord acc ++ .comma :: tokens [] rest
    else if c = '=' then pendingWord acc ++ .equals :: tokens [] rest
    else tokens (c :: acc) rest

/-- The value of a digit, 0..15. -/
def digitValue (c : Char) : Option Nat :=
  let n := c.toNat
  if 48 ≤ n ∧ n ≤ 57 then some (n - 48)
  else if 65 ≤ n ∧ n ≤ 70 then some (n - 55)
  else if 97 ≤ n ∧ n ≤ 102 then some (n - 87)
  else none

/-- Digits in a base, most significant first. -/
def digitsValue (base acc : Nat) (cs : List Char) : Option Nat :=
  match cs with
  | [] => some acc
  | c :: rest =>
    match digitValue c with
    | some d => if d < base then digitsValue base (acc * base + d) rest else none
    | none => none

/-- A literal: `0x` hexadecimal, `0b` binary, otherwise decimal (R7, R45). -/
def literalValue (cs : List Char) : Option Nat :=
  match cs with
  | '0' :: 'x' :: c :: rest => digitsValue 16 0 (c :: rest)
  | '0' :: 'b' :: c :: rest => digitsValue 2 0 (c :: rest)
  | [] => none
  | c :: rest => digitsValue 10 0 (c :: rest)

/-- A letter or an underscore. -/
def isNameStart (c : Char) : Bool :=
  let n := c.toNat
  (65 ≤ n && n ≤ 90) || (97 ≤ n && n ≤ 122) || n == 95

/-- A letter, an underscore or a decimal digit. -/
def isNameChar (c : Char) : Bool :=
  isNameStart c || (48 ≤ c.toNat && c.toNat ≤ 57)

/-- Whether a word is a name: a letter or an underscore, then letters, digits and underscores (log 10). -/
def isName (cs : List Char) : Bool :=
  match cs with
  | [] => false
  | c :: rest => isNameStart c && rest.all isNameChar

/-- The operation of an upper-case mnemonic (R38, R45). -/
def operationOf (cs : List Char) : Option Operation :=
  if cs = ['E', 'X', 'P', 'L', 'O', 'D', 'E'] then some .explode
  else if cs = ['I', 'M', 'P', 'L', 'O', 'D', 'E'] then some .implode
  else if cs = ['R', 'E', 'V', 'E', 'R', 'S', 'E'] then some .reverse
  else if cs = ['S', 'E', 'T', 'A', 'L', 'P', 'H', 'A'] then some .setalpha
  else if cs = ['A', 'D', 'D'] then some .add
  else if cs = ['S', 'U', 'B'] then some .sub
  else if cs = ['M', 'U', 'L'] then some .mul
  else none

/-- A word as an operand: a name or a literal. -/
def operandOf (cs : List Char) : Option Operand :=
  if isName cs then some (.name cs) else (literalValue cs).map .lit

/-- A comma-separated list of words. -/
def commaWords (ts : List Token) : Option (List (List Char)) :=
  match ts with
  | [.word w] => some [w]
  | .word w :: .comma :: rest => (commaWords rest).map (w :: ·)
  | _ => none

/-- The tokens before the first equals sign, and those after it. -/
def splitEquals (ts : List Token) : Option (List Token × List Token) :=
  match ts with
  | [] => none
  | .equals :: rest => some ([], rest)
  | t :: rest => (splitEquals rest).map (fun p => (t :: p.1, p.2))

/-- A line from its tokens (R45). -/
def lineOf (ts : List Token) : Option Line :=
  match splitEquals ts with
  | some (left, .word m :: right) =>
    match commaWords left, operationOf m, commaWords right with
    | some names, some o, some ws =>
      match ws.mapM operandOf with
      | some os => if names.all isName then some ⟨names, o, os⟩ else none
      | none => none
    | _, _, _ => none
  | _ => none

/-- A text cut into lines at its line ends. -/
def textLines (acc : List Char) (text : List Char) : List (List Char) :=
  match text with
  | [] => [acc.reverse]
  | c :: rest => if c = '\n' then acc.reverse :: textLines [] rest else textLines (c :: acc) rest

/-- The lines of a list of token lists, those without a token (blank or only a comment) left out. -/
def linesOf (tss : List (List Token)) : Except SequenceStop (List Line) :=
  match tss with
  | [] => .ok []
  | [] :: rest => linesOf rest
  | ts :: rest =>
    match lineOf ts, linesOf rest with
    | some l, .ok ls => .ok (l :: ls)
    | none, _ => .error .badText
    | _, .error e => .error e

/-- A request sequence from its text (R45). -/
def parseSequence (text : List Char) : Except SequenceStop (List Line) :=
  linesOf ((textLines [] text).map (tokens []))

end Sys2Proof.Machine
end

