-- ==== Sys2Proof/Machine/Pipeline.lean ====
section
/-! DEFINITION. An implementation with `LATENCY` cycles between a request and its response (00_scope.md R6, 10_state.md R23,
70_reset_and_hazards.md R86 and R90), with `LATENCY` as an argument. `Sys2Proof.core` is the case 0, which has none of this;
log 9 says what this layer chooses. -/

namespace Sys2Proof.Machine

/-- The state of a pipelined unit, looked at between two cycles. -/
structure Pipe where
  /-- one entry per stage, the oldest first: a request in flight, or `none` where no request entered -/
  inFlight : List (Option Request)
  /-- the values on the result ports -/
  out : Response
  /-- the model's own count of cycles, which numbers the free values -/
  cycle : Nat
  deriving DecidableEq, Repr

/-- FREE VALUE: the result ports in a cycle in which no response is due ("any value", U3, R86). -/
def startupResponse (cycle : Nat) : Response :=
  ⟨Config.startupWord cycle 0, Config.startupWord cycle 1, Config.startupWord cycle 2, Config.startupWord cycle 3⟩

/-- The unit after power-up: every stage empty, the result ports unspecified (R86). -/
def pipePowerUp (latency : Nat) : Pipe :=
  ⟨List.replicate latency none, startupResponse 0, 1⟩

/-- Reset or power loss of a running unit: the requests in flight are discarded "and nothing else" (R84, R86). -/
def pipeReset (p : Pipe) : Pipe :=
  ⟨p.inFlight.map (fun _ => none), startupResponse p.cycle, p.cycle + 1⟩

/-- The result ports when the stage `q` leaves the pipeline: the response to its request, or a free value if it holds none. -/
def emitted (cycle : Nat) (q : Option Request) : Response :=
  match q.bind respond with
  | some y => y
  | none => startupResponse cycle

/-- Every stage moves on by one cycle: `entering` goes in, and the result ports show what the oldest stage gives. -/
def pipeAdvance (p : Pipe) (entering : Option Request) : Pipe :=
  match p.inFlight ++ [entering] with
  | [] => p
  | oldest :: rest => ⟨rest, emitted p.cycle oldest, p.cycle + 1⟩

/-- One cycle, in which the host presents a request or none: after `latency` cycles the result ports show the response to the
request presented now (R86, R90). A request with `op = 7` is refused when it is presented (R42). -/
def pipeTick (p : Pipe) (presented : Option Request) : Host.Outcome Pipe Fault Refusal :=
  match presented with
  | none => .next (pipeAdvance p none)
  | some r =>
    match step (State.reset.present r) with
    | .fault f => nomatch f
    | .refused q => .refused q
    | .next _ => .next (pipeAdvance p (some r))

/-- A run of cycles, with the result ports as they stand after each. -/
def pipeRun (p : Pipe) (cycles : List (Option Request)) : Host.Outcome (Pipe × List Response) Fault Refusal :=
  match cycles with
  | [] => .next (p, [])
  | c :: rest =>
    match pipeTick p c with
    | .fault f => nomatch f
    | .refused q => .refused q
    | .next p' =>
      match pipeRun p' rest with
      | .fault f => nomatch f
      | .refused q => .refused q
      | .next (p'', ys) => .next (p'', p'.out :: ys)

end Sys2Proof.Machine
end

