-- ==== Sys2Proof/Safety.lean ====
section
/-! DEFINITION. What a safe run is, in the terms the statements use: the rules read as arithmetic on byte values, without a bit
operation, and the settled states of R26. -/

namespace Sys2Proof.Safety

/-- Byte `k` of a word by significance: 3 alpha, 2 red, 1 green, 0 blue (R28). -/
def byteOf (c : Word) (k : Nat) : Nat := c.toNat / 256 ^ k % 256

/-- The number whose four bytes are these, alpha most significant (R14). -/
def ofBytes (a r g b : Nat) : Nat := ((a * 256 + r) * 256 + g) * 256 + b

/-- The lane framework of R59 on numbers. -/
def laneNumber (f : Nat → Nat → Nat) (p q : Word) : Nat :=
  ofBytes (f (byteOf p 3) (byteOf q 3)) (f (byteOf p 2) (byteOf q 2))
    (f (byteOf p 1) (byteOf q 1)) (f (byteOf p 0) (byteOf q 0))

/-- The values a request's response has on `y0`..`y3` by R48, R49, R53, R56, R61, R62 and R63, as numbers; no entry for the
reserved code (R42). Subtraction of naturals stops at 0, and division of naturals is the floor (R64, R66). -/
def numericResponse (r : Request) : Option (List Nat) :=
  match r.op.toNat with
  | 0 => some [byteOf r.x0 3, byteOf r.x0 2, byteOf r.x0 1, byteOf r.x0 0]
  | 1 => some [ofBytes (r.x0.toNat % 256) (r.x1.toNat % 256) (r.x2.toNat % 256) (r.x3.toNat % 256), 0, 0, 0]
  | 2 => some [ofBytes (byteOf r.x0 0) (byteOf r.x0 1) (byteOf r.x0 2) (byteOf r.x0 3), 0, 0, 0]
  | 3 => some [ofBytes (r.x1.toNat % 256) (byteOf r.x0 2) (byteOf r.x0 1) (byteOf r.x0 0), 0, 0, 0]
  | 4 => some [laneNumber (fun u v => min (u + v) 255) r.x0 r.x1, 0, 0, 0]
  | 5 => some [laneNumber (fun u v => u - v) r.x0 r.x1, 0, 0, 0]
  | 6 => some [laneNumber (fun u v => u * v / 255) r.x0 r.x1, 0, 0, 0]
  | _ => none

/-- A response as the list of its four port values. -/
def numbersOf (y : Response) : List Nat := [y.y0.toNat, y.y1.toNat, y.y2.toNat, y.y3.toNat]

/-- The invariant of R26: if the input ports carry a request with `op` in 0..6, the result ports carry its response. -/
def Settled (s : Machine.State) : Prop :=
  s.request.defined → numericResponse s.request = some (numbersOf s.response)

/-- The invariant of a pipelined unit of `latency` stages: it holds exactly `latency` requests or empty stages, and every
request in it is one the host may present (R42, R90, R92). -/
def PipeLegal (latency : Nat) (p : Machine.Pipe) : Prop :=
  p.inFlight.length = latency ∧ ∀ q, some q ∈ p.inFlight → q.defined

/-- No lane of the operation leaves its channel: each exact result `f u v` is in 0..255 (R70). -/
def NoLaneClamps (f : Int → Int → Int) (p q : Word) : Prop :=
  ∀ k < 4, 0 ≤ f (byteOf p k) (byteOf q k) ∧ f (byteOf p k) (byteOf q k) ≤ 255

end Sys2Proof.Safety
end

