-- ==== Sys2Proof/Certificates/Slice0/Obligations.lean ====
section
/-! DEFINITION. The statements for the provers, each citing the rule of spec/ it formalises. -/

open Sys2Proof Sys2Proof.Machine Sys2Proof.Safety

-- ---- Encoding and decoding (30_encoding.md) ----

/-- R38, R39: each `op` value selects its operation, and each operand port carries the argument the signature lists there. -/
def Obligations.OpCodesSelectOperations : Prop :=
  ∀ x0 x1 x2 x3 : Word,
    decode ⟨0#3, x0, x1, x2, x3⟩ = .explode x0 ∧
    decode ⟨1#3, x0, x1, x2, x3⟩ = .implode x0 x1 x2 x3 ∧
    decode ⟨2#3, x0, x1, x2, x3⟩ = .reverse x0 ∧
    decode ⟨3#3, x0, x1, x2, x3⟩ = .setalpha x0 x1 ∧
    decode ⟨4#3, x0, x1, x2, x3⟩ = .add x0 x1 ∧
    decode ⟨5#3, x0, x1, x2, x3⟩ = .sub x0 x1 ∧
    decode ⟨6#3, x0, x1, x2, x3⟩ = .mul x0 x1 ∧
    decode ⟨7#3, x0, x1, x2, x3⟩ = .reserved

/-- R44: the operation is known from `op` alone, and every value of `op` is the code of the operation it selects. -/
def Obligations.DecoderReadsOpAlone : Prop :=
  ∀ r : Request, (decode r).opcode = r.op

/-- R37: the request string is `op ++ x3 ++ x2 ++ x1 ++ x0` and every 131-bit string is exactly one request; the response
string is `y3 ++ y2 ++ y1 ++ y0`. -/
def Obligations.RequestStringLayout : Prop :=
  (∀ r : Request, Request.ofBits r.toBits = r ∧
    r.toBits.toNat =
      (((r.op.toNat * 2 ^ 32 + r.x3.toNat) * 2 ^ 32 + r.x2.toNat) * 2 ^ 32 + r.x1.toNat) * 2 ^ 32 + r.x0.toNat) ∧
  (∀ v : BitVec 131, (Request.ofBits v).toBits = v) ∧
  (∀ y : Response, y.toBits.toNat = ((y.y3.toNat * 2 ^ 32 + y.y2.toNat) * 2 ^ 32 + y.y1.toNat) * 2 ^ 32 + y.y0.toNat)

/-- R37, R42: a 131-bit string is defined exactly when its top three bits are not `111`; the rejection says which of the two
reasons it has. -/
def Obligations.StringDefinedUnlessTopBitsSet : Prop :=
  ∀ v : Nat,
    (v < 2 ^ 131 → v / 2 ^ 128 ≠ 7 → ∃ i, i.wellFormed = true ∧ decodeString v = .ok i) ∧
    (v < 2 ^ 131 → v / 2 ^ 128 = 7 → decodeString v = .error .reservedOp) ∧
    (2 ^ 131 ≤ v → decodeString v = .error .tooLong)

/-- R37, R38, R39: decoding the string of an instruction gives the instruction, for every operand value. -/
def Obligations.DecodeEncodeAgree : Prop :=
  ∀ i : Instr, decodeBits (encode i) = i ∧ (i.wellFormed = true → decodeString (encode i).toNat = .ok i)

/-- R39, R43: encoding what a request decodes to gives the request back on `op` and on every operand port the operation uses;
the unused ports, which the decoder drops, are shown as zero (log 7). -/
def Obligations.EncodeDecodeKeepsUsedPorts : Prop :=
  ∀ r : Request, (encodeRequest (decode r)).op = r.op ∧
    ∀ k : Fin 4, (encodeRequest (decode r)).x k = if usesPort r.op k = true then r.x k else 0#32

/-- 95_test_vectors.md section 3: request strings written out in the spec decode to the lines they stand for. -/
def Obligations.SpecRequestStringsDecode : Prop :=
  decodeString 0x00000000000000000000000008C5F77AD = .ok (.explode 0x8C5F77AD#32) ∧
  decodeString 0x1000000AD000000770000005F0000008C = .ok (.implode 0x8C#32 0x5F#32 0x77#32 0xAD#32) ∧
  decodeString 0x2000000000000000000000000CC375D5F = .ok (.reverse 0xCC375D5F#32) ∧
  decodeString 0x30000000000000000000001CC8C5F77AD = .ok (.setalpha 0x8C5F77AD#32 0x1CC#32) ∧
  decodeString 0x40000000000000000CC375D5F00281A4E = .ok (.add 0x00281A4E#32 0xCC375D5F#32) ∧
  decodeString 0x5000000000000000000281A4E8C5F77AD = .ok (.sub 0x8C5F77AD#32 0x00281A4E#32) ∧
  decodeString 0x60000000000000000FF80808080FFFFFF = .ok (.mul 0x80FFFFFF#32 0xFF808080#32)

-- ---- The step ----

/-- R13, R31, R37: a step runs the instruction the request on the input ports decodes to, and does nothing else around it; a
presented request is the one the next step runs; and an opcode-table word is presented as the request it decodes from (the
model's numbering, log 8). -/
def Obligations.StepRunsDecodedInstruction : Prop :=
  (∀ (s : State) (i : Instr), decode s.request = i → step s = exec i s) ∧
  (∀ (s : State) (r : Request), (s.present r).request = r ∧
    step (s.present r) = exec (decode r) (s.present r)) ∧
  (∀ (s : State) (nbits w : Nat) (i : Instr), decodeTableWord nbits w = some i →
    step (s.withFetchWord nbits w) = exec i (s.withFetchWord nbits w))

/-- R73, R76, R42: a request with `op` in 0..6 is always answered, whatever the operands; one with `op = 7` is refused. -/
def Obligations.StepAnswersExactlyDefinedRequests : Prop :=
  ∀ s : State, (s.op ≠ 7#3 → ∃ t, step s = .next t) ∧ (s.op = 7#3 → step s = .refused .reservedOp)

/-- R16, R18: no instruction writes an operand port or the port `op`; the result ports are all it writes. -/
def Obligations.InputPortsNeverWritten : Prop :=
  ∀ (i : Instr) (s t : State), exec i s = .next t →
    t.op = s.op ∧ t.x0 = s.x0 ∧ t.x1 = s.x1 ∧ t.x2 = s.x2 ∧ t.x3 = s.x3

/-- R13: two states with the same request on their input ports step alike, whatever stood on their result ports. -/
def Obligations.ResponseDependsOnRequestAlone : Prop :=
  ∀ s s' : State, s.request = s'.request → step s = step s'

/-- R31: presenting the same request again gives the same response. -/
def Obligations.RepeatedRequestSameResponse : Prop :=
  ∀ s t : State, step s = .next t → step t = .next t

/-- R25, R26, R85: at reset the result ports carry the response to the request on the input ports. (That the request there is
`EXPLODE 0` is the model's choice, log 2.) -/
def Obligations.ResetStateIsSettled : Prop :=
  Settled State.reset ∧ step State.reset = .next State.reset

/-- R13, R26: a step from ANY state leaves the result ports equal to the response, by the rules' arithmetic, to the request on
the input ports; a state that satisfies this already is left as it is. -/
def Obligations.EveryStepSettles : Prop :=
  (∀ s t : State, step s = .next t → Settled t) ∧ (∀ s : State, s.request.defined → Settled s → step s = .next s)

/-- R26: the result ports are at all times the response to the input ports: at reset, whenever a host presents a request in any
state, and after every step; the response to a defined request stands there as soon as it is presented, and a step changes
nothing there. -/
def Obligations.ResultPortsFollowInputPorts : Prop :=
  Settled State.reset ∧ (∀ (s : State) (r : Request), Settled (s.present r)) ∧
  (∀ s t : State, Settled s → step s = .next t → Settled t) ∧
  (∀ (s : State) (r : Request), r.defined →
    respond r = some (s.present r).response ∧ step (s.present r) = .next (s.present r))

/-- R48, R49, R53, R56, R61, R62, R63, R42: on every request, the unit agrees with the rules read as arithmetic on bytes. -/
def Obligations.UnitMatchesByteArithmetic : Prop :=
  ∀ r : Request, (respond r).map numbersOf = numericResponse r

/-- R41: EXPLODE drives a channel value on every result port; every other operation drives zero on `y1`, `y2`, `y3`. -/
def Obligations.UnusedResultPortsAreZero : Prop :=
  ∀ s t : State, step s = .next t →
    (s.op = 0#3 → t.y0.toNat < 256 ∧ t.y1.toNat < 256 ∧ t.y2.toNat < 256 ∧ t.y3.toNat < 256) ∧
    (s.op ≠ 0#3 → t.y1 = 0#32 ∧ t.y2 = 0#32 ∧ t.y3 = 0#32)

/-- R43: the response does not depend on the value of an unused operand port. -/
def Obligations.UnusedOperandPortsIgnored : Prop :=
  ∀ r r' : Request, r.op = r'.op → (∀ k : Fin 4, usesPort r.op k = true → r.x k = r'.x k) → respond r = respond r'

/-- R40, R74: requests that differ only in bits 31..8 of channel operands get the same response. -/
def Obligations.ChannelOperandHighBitsIgnored : Prop :=
  ∀ r r' : Request, r.op = r'.op →
    (∀ k : Fin 4, if isChannelOperand r.op k = true then (r.x k).toNat % 256 = (r'.x k).toNat % 256 else r.x k = r'.x k) →
    respond r = respond r'

/-- R10, R17, R40: a host integer of any size or sign reaches a port as its value modulo 2^32, and a channel operand as its
value modulo 256. (Two's complement is the spec's presumption G1, log 12.) -/
def Obligations.HostIntegersTakenModulo : Prop :=
  (∀ n : Int, ((hostWord n).toNat : Int) = n % 2 ^ 32) ∧
  (∀ (s : State) (a r g b : Int),
    exec (.implode (hostWord a) (hostWord r) (hostWord g) (hostWord b)) s =
      exec (.implode (hostWord (a % 256)) (hostWord (r % 256)) (hostWord (g % 256)) (hostWord (b % 256))) s) ∧
  (∀ (s : State) (c : Word) (al : Int), exec (.setalpha c (hostWord al)) s = exec (.setalpha c (hostWord (al % 256))) s)

-- ---- EXPLODE and IMPLODE (40_explode_implode.md) ----

/-- R48: EXPLODE's code and operand, its completion in every state, its four results by the rule's shifts and masks and as byte
values, and that it changes nothing else. -/
def Obligations.ExplodeGivesFourChannels : Prop :=
  ∀ (s : State) (c x1 x2 x3 : Word), decode ⟨0#3, c, x1, x2, x3⟩ = .explode c ∧
    ∃ t, exec (.explode c) s = .next t ∧ t.request = s.request ∧
      t.y0 = ((c >>> 24) &&& 0xFF#32) ∧ t.y1 = ((c >>> 16) &&& 0xFF#32) ∧
      t.y2 = ((c >>> 8) &&& 0xFF#32) ∧ t.y3 = (c &&& 0xFF#32) ∧
      numbersOf t.response = [byteOf c 3, byteOf c 2, byteOf c 1, byteOf c 0]

/-- R48 (90_conflicts.md C3): an arithmetic shift before the mask gives the same four channels. -/
def Obligations.ExplodeSameUnderArithmeticShift : Prop :=
  ∀ (s : State) (c : Word), ∃ t, exec (.explode c) s = .next t ∧
    t.y0 = ((c.sshiftRight 24) &&& 0xFF#32) ∧ t.y1 = ((c.sshiftRight 16) &&& 0xFF#32) ∧
    t.y2 = ((c.sshiftRight 8) &&& 0xFF#32) ∧ t.y3 = (c &&& 0xFF#32)

/-- R28: a narrower view of a word: low 8 bits blue, low 16 bits green ++ blue, high 16 bits alpha ++ red, the channels being
those EXPLODE gives. -/
def Obligations.ByteOrderInsideTheWord : Prop :=
  ∀ (s : State) (c : Word), ∃ t, exec (.explode c) s = .next t ∧
    c.toNat % 2 ^ 8 = t.y3.toNat ∧
    c.toNat % 2 ^ 16 = t.y2.toNat * 256 + t.y3.toNat ∧
    c.toNat / 2 ^ 16 = t.y0.toNat * 256 + t.y1.toNat ∧
    c.toNat = ofBytes t.y0.toNat t.y1.toNat t.y2.toNat t.y3.toNat

/-- R49: IMPLODE's code and operands, its completion in every state, its result by the rule's masks and shifts and as a number,
and that it changes nothing else. -/
def Obligations.ImplodePacksFourChannels : Prop :=
  ∀ (s : State) (a r g b : Word), decode ⟨1#3, a, r, g, b⟩ = .implode a r g b ∧
    ∃ t, exec (.implode a r g b) s = .next t ∧ t.request = s.request ∧
      t.y0 = (((a &&& 0xFF#32) <<< 24) ||| ((r &&& 0xFF#32) <<< 16) ||| ((g &&& 0xFF#32) <<< 8) ||| (b &&& 0xFF#32)) ∧
      numbersOf t.response =
        [ofBytes (a.toNat % 256) (r.toNat % 256) (g.toNat % 256) (b.toNat % 256), 0, 0, 0]

/-- R50: for every word, IMPLODE of EXPLODE's results, in the same order, returns the word. -/
def Obligations.ImplodeOfExplodeIsIdentity : Prop :=
  ∀ (s : State) (c : Word), ∃ t u, exec (.explode c) s = .next t ∧
    exec (.implode t.y0 t.y1 t.y2 t.y3) t = .next u ∧ u.y0 = c

/-- R52: EXPLODE of IMPLODE returns the low eight bits of each operand, and the operands themselves exactly when each is in
0..255. -/
def Obligations.ExplodeOfImplodeTruncates : Prop :=
  ∀ (s : State) (a r g b : Word), ∃ t u, exec (.implode a r g b) s = .next t ∧ exec (.explode t.y0) t = .next u ∧
    numbersOf u.response = [a.toNat % 256, r.toNat % 256, g.toNat % 256, b.toNat % 256] ∧
    (u.response = ⟨a, r, g, b⟩ ↔ a.toNat < 256 ∧ r.toNat < 256 ∧ g.toNat < 256 ∧ b.toNat < 256)

-- ---- REVERSE and SETALPHA (41_reverse_setalpha.md) ----

/-- R53: REVERSE's code and operand, its completion in every state, its result by the rule's masks and shifts and as a number,
and that it changes nothing else. -/
def Obligations.ReverseSwapsBytes : Prop :=
  ∀ (s : State) (c x1 x2 x3 : Word), decode ⟨2#3, c, x1, x2, x3⟩ = .reverse c ∧
    ∃ t, exec (.reverse c) s = .next t ∧ t.request = s.request ∧
      t.y0 = (((c &&& 0x000000FF#32) <<< 24) ||| ((c &&& 0x0000FF00#32) <<< 8)
        ||| ((c >>> 8) &&& 0x0000FF00#32) ||| ((c >>> 24) &&& 0x000000FF#32)) ∧
      numbersOf t.response = [ofBytes (byteOf c 0) (byteOf c 1) (byteOf c 2) (byteOf c 3), 0, 0, 0]

/-- R54: REVERSE is its own inverse, hence a bijection on words. -/
def Obligations.ReverseIsAnInvolution : Prop :=
  (∀ (s : State) (c : Word), ∃ t u, exec (.reverse c) s = .next t ∧ exec (.reverse t.y0) t = .next u ∧ u.y0 = c) ∧
  (∀ (s : State) (d : Word), ∃ c t, exec (.reverse c) s = .next t ∧ t.y0 = d ∧
    ∀ c' t', exec (.reverse c') s = .next t' → t'.y0 = d → c' = c)

/-- R55: REVERSE is IMPLODE of EXPLODE's results in the opposite order, and commutes with ADD, SUB and MUL. -/
def Obligations.ReverseCommutesWithLanes : Prop :=
  (∀ (s : State) (c : Word), ∃ t u v, exec (.explode c) s = .next t ∧
    exec (.implode t.y3 t.y2 t.y1 t.y0) t = .next u ∧ exec (.reverse c) s = .next v ∧ v.y0 = u.y0) ∧
  (∀ F : Word → Word → Instr, F = Instr.add ∨ F = Instr.sub ∨ F = Instr.mul → ∀ (s : State) (p q : Word),
    ∃ f rf rp rq frr, exec (F p q) s = .next f ∧ exec (.reverse f.y0) s = .next rf ∧
      exec (.reverse p) s = .next rp ∧ exec (.reverse q) s = .next rq ∧
      exec (F rp.y0 rq.y0) s = .next frr ∧ rf.y0 = frr.y0)

/-- R56: SETALPHA's code and operands, its completion in every state, its result by the rule's mask and shift and as a number,
and that it changes nothing else. -/
def Obligations.SetAlphaReplacesAlphaByte : Prop :=
  ∀ (s : State) (c al x2 x3 : Word), decode ⟨3#3, c, al, x2, x3⟩ = .setalpha c al ∧
    ∃ t, exec (.setalpha c al) s = .next t ∧ t.request = s.request ∧
      t.y0 = ((c &&& 0x00FFFFFF#32) ||| ((al &&& 0xFF#32) <<< 24)) ∧
      numbersOf t.response = [ofBytes (al.toNat % 256) (byteOf c 2) (byteOf c 1) (byteOf c 0), 0, 0, 0]

/-- R56, corner cases (3) and (4): setting the alpha a word has changes nothing, and setting twice keeps the last. -/
def Obligations.SetAlphaTwiceKeepsLast : Prop :=
  (∀ (s : State) (c : Word), ∃ t u, exec (.explode c) s = .next t ∧ exec (.setalpha c t.y0) t = .next u ∧ u.y0 = c) ∧
  (∀ (s : State) (c p q : Word), ∃ t u v, exec (.setalpha c p) s = .next t ∧ exec (.setalpha t.y0 q) t = .next u ∧
    exec (.setalpha c q) s = .next v ∧ u.y0 = v.y0)

/-- R57: SETALPHA equals IMPLODE of `alpha` with the red, green and blue exploded from the color, for out-of-range `alpha` too. -/
def Obligations.SetAlphaEqualsImplodeOfExploded : Prop :=
  ∀ (s : State) (c al : Word), ∃ t u v, exec (.explode c) s = .next t ∧
    exec (.implode al t.y1 t.y2 t.y3) s = .next u ∧ exec (.setalpha c al) s = .next v ∧ v = u

-- ---- ADD, SUB, MUL (42_saturating_arithmetic.md) ----

/-- R61: ADD's code and operands, its completion in every state, `min(u + v, 255)` in every lane, and that it changes nothing
else. -/
def Obligations.AddSaturatesAtMaximum : Prop :=
  ∀ (s : State) (p q x2 x3 : Word), decode ⟨4#3, p, q, x2, x3⟩ = .add p q ∧
    ∃ t, exec (.add p q) s = .next t ∧ t.request = s.request ∧
      numbersOf t.response = [laneNumber (fun u v => min (u + v) 255) p q, 0, 0, 0]

/-- R62 (C1): SUB's code and operands, its completion in every state, `max(u - v, 0)` in every lane with `u` from the first
operand, and that it changes nothing else. -/
def Obligations.SubSaturatesAtZero : Prop :=
  ∀ (s : State) (p q x2 x3 : Word), decode ⟨5#3, p, q, x2, x3⟩ = .sub p q ∧
    ∃ t, exec (.sub p q) s = .next t ∧ t.request = s.request ∧
      numbersOf t.response = [laneNumber (fun u v => (max ((u : Int) - (v : Int)) 0).toNat) p q, 0, 0, 0]

/-- R63: MUL's code and operands, its completion in every state, `(u * v) div 255` in every lane, and that it changes nothing
else. -/
def Obligations.MulDividesByTwoFiftyFive : Prop :=
  ∀ (s : State) (p q x2 x3 : Word), decode ⟨6#3, p, q, x2, x3⟩ = .mul p q ∧
    ∃ t, exec (.mul p q) s = .next t ∧ t.request = s.request ∧
      numbersOf t.response = [laneNumber (fun u v => u * v / 255) p q, 0, 0, 0]

/-- R42: the reserved code is refused in every state, and is the one request a host may not present. -/
def Obligations.ReservedCodeRefused : Prop :=
  (∀ (s : State), exec .reserved s = .refused .reservedOp) ∧
  (∀ r : Request, decode r = .reserved ↔ r.op = 7#3) ∧
  (∀ r : Request, (decode r).wellFormed = true ↔ r.defined)

/-- R59: in ADD, SUB and MUL a byte of the result depends on the corresponding bytes of the operands alone, by the same function
in every lane. -/
def Obligations.LanesAreIndependent : Prop :=
  ∀ F : Word → Word → Instr, F = Instr.add ∨ F = Instr.sub ∨ F = Instr.mul →
    ∀ (s s' : State) (p q p' q' : Word) (k j : Nat), k < 4 → j < 4 →
      byteOf p k = byteOf p' j → byteOf q k = byteOf q' j →
      ∃ t t', exec (F p q) s = .next t ∧ exec (F p' q') s' = .next t' ∧ byteOf t.y0 k = byteOf t'.y0 j

/-- R60, R61, R62, R63, corner cases: the operands 0, 0xFFFFFFFF and the same word twice (`ADD c, c` doubles each channel with
saturation, `SUB c, c = 0`, `MUL c, c` squares each channel over 255). -/
def Obligations.IdentityAndAbsorbingOperands : Prop :=
  ∀ (s : State) (c : Word), ∃ a0 aF ac s0 sc z sF n mF m0 mc,
    exec (.add c 0#32) s = .next a0 ∧ a0.y0 = c ∧
    exec (.add c 0xFFFFFFFF#32) s = .next aF ∧ aF.y0 = 0xFFFFFFFF#32 ∧
    exec (.add c c) s = .next ac ∧ ac.y0.toNat = laneNumber (fun u _ => min (2 * u) 255) c c ∧
    exec (.sub c 0#32) s = .next s0 ∧ s0.y0 = c ∧
    exec (.sub c c) s = .next sc ∧ sc.y0 = 0#32 ∧
    exec (.sub 0#32 c) s = .next z ∧ z.y0 = 0#32 ∧
    exec (.sub c 0xFFFFFFFF#32) s = .next sF ∧ sF.y0 = 0#32 ∧
    exec (.sub 0xFFFFFFFF#32 c) s = .next n ∧ n.y0 = ~~~c ∧
    exec (.mul c 0xFFFFFFFF#32) s = .next mF ∧ mF.y0 = c ∧
    exec (.mul c 0#32) s = .next m0 ∧ m0.y0 = 0#32 ∧
    exec (.mul c c) s = .next mc ∧ mc.y0.toNat = laneNumber (fun u _ => u * u / 255) c c

/-- R65: the clamp in MUL never changes a value, and so the lane result is the floor of `u * v / 255` (R64). -/
def Obligations.MulClampNeverActs : Prop :=
  ∀ u v : Channel,
    clamp ((chanInt u * chanInt v).tdiv 255) = (chanInt u * chanInt v).tdiv 255 ∧
    (mul8 u v).toNat = u.toNat * v.toNat / 255

/-- R64: the two fixed-point forms agree with MUL's lane on all pairs; `t >> 8` and rounding to nearest do not. -/
def Obligations.MulFixedPointFormsAgree : Prop :=
  (∀ u v : Channel,
    (mul8 u v).toNat = (u.toNat * v.toNat + 1 + ((u.toNat * v.toNat) >>> 8)) >>> 8 ∧
    (mul8 u v).toNat = (u.toNat * v.toNat * 0x8081) >>> 23) ∧
  (∃ u v : Channel, (mul8 u v).toNat ≠ (u.toNat * v.toNat) >>> 8) ∧
  (∃ u v : Channel, (mul8 u v).toNat ≠ (u.toNat * v.toNat + 127) / 255)

/-- R67: ADD and MUL are commutative; SUB gives the same for exchanged operands exactly when they are equal, and then 0. -/
def Obligations.AddMulCommuteSubDoesNot : Prop :=
  (∀ (s : State) (p q : Word), exec (.add p q) s = exec (.add q p) s) ∧
  (∀ (s : State) (p q : Word), exec (.mul p q) s = exec (.mul q p) s) ∧
  (∀ (s : State) (p q : Word), ∃ t u, exec (.sub p q) s = .next t ∧ exec (.sub q p) s = .next u ∧
    (t.y0 = u.y0 ↔ p = q) ∧ (p = q → t.y0 = 0#32))

/-- R68: ADD is associative, each lane being `min(u + v + w, 255)` whichever pair is added first; MUL is not, by the rule's
counterexample in words and in one lane; SUB undoes ADD exactly when no lane has saturated; MUL does not distribute over ADD, by
truncation (no lane of the first operands saturates) and by saturation (no lane of the second is truncated). -/
def Obligations.AddAssociativeMulNot : Prop :=
  (∀ (s : State) (p q w : Word), ∃ pq l qw r, exec (.add p q) s = .next pq ∧ exec (.add pq.y0 w) s = .next l ∧
    exec (.add q w) s = .next qw ∧ exec (.add p qw.y0) s = .next r ∧ l.y0 = r.y0 ∧
    l.y0.toNat = ofBytes (min (byteOf p 3 + byteOf q 3 + byteOf w 3) 255) (min (byteOf p 2 + byteOf q 2 + byteOf w 2) 255)
      (min (byteOf p 1 + byteOf q 1 + byteOf w 1) 255) (min (byteOf p 0 + byteOf q 0 + byteOf w 0) 255)) ∧
  (∀ s : State, ∃ uv l vw r, exec (.mul 0x02020202#32 0x81818181#32) s = .next uv ∧
    exec (.mul uv.y0 0xFEFEFEFE#32) s = .next l ∧ exec (.mul 0x81818181#32 0xFEFEFEFE#32) s = .next vw ∧
    exec (.mul 0x02020202#32 vw.y0) s = .next r ∧ l.y0 = 0x00000000#32 ∧ r.y0 = 0x01010101#32) ∧
  (mul8 (mul8 2#8 129#8) 254#8 = 0#8 ∧ mul8 2#8 (mul8 129#8 254#8) = 1#8) ∧
  (∀ (s : State) (p q : Word), ∃ a r, exec (.add p q) s = .next a ∧ exec (.sub a.y0 q) s = .next r ∧
    (r.y0 = p ↔ NoLaneClamps (fun u v => u + v) p q)) ∧
  (∀ s : State, ∃ a m mq mw b, exec (.add 0x7F7F7F7F#32 0x80808080#32) s = .next a ∧
    exec (.mul 0x01010101#32 a.y0) s = .next m ∧ exec (.mul 0x01010101#32 0x7F7F7F7F#32) s = .next mq ∧
    exec (.mul 0x01010101#32 0x80808080#32) s = .next mw ∧ exec (.add mq.y0 mw.y0) s = .next b ∧
    m.y0 = 0x01010101#32 ∧ b.y0 = 0#32) ∧
  (∀ s : State, ∃ a m mq b, exec (.add 0xFFFFFFFF#32 0xFFFFFFFF#32) s = .next a ∧
    exec (.mul 0x80808080#32 a.y0) s = .next m ∧ exec (.mul 0x80808080#32 0xFFFFFFFF#32) s = .next mq ∧
    exec (.add mq.y0 mq.y0) s = .next b ∧ m.y0 = 0x80808080#32 ∧ b.y0 = 0xFFFFFFFF#32)

/-- R69: the per-lane identities of ADD, SUB and MUL. -/
def Obligations.LaneIdentities : Prop :=
  ∀ u v w : Channel,
    (add8 (sub8 u v) v).toNat = max u.toNat v.toNat ∧
    (sub8 u (sub8 u v)).toNat = min u.toNat v.toNat ∧
    (u.toNat + v.toNat ≤ 255 → sub8 (add8 u v) v = u) ∧
    (255 < u.toNat + v.toNat → (sub8 (add8 u v) v).toNat = 255 - v.toNat) ∧
    (mul8 u v).toNat ≤ min u.toNat v.toNat ∧
    mul8 u 255#8 = u ∧ mul8 u 0#8 = 0#8 ∧ mul8 u 1#8 = (if u = 255#8 then 1#8 else 0#8) ∧
    (u.toNat ≤ v.toNat →
      (add8 u w).toNat ≤ (add8 v w).toNat ∧ (add8 w u).toNat ≤ (add8 w v).toNat ∧
      (mul8 u w).toNat ≤ (mul8 v w).toNat ∧ (mul8 w u).toNat ≤ (mul8 w v).toNat ∧
      (sub8 u w).toNat ≤ (sub8 v w).toNat ∧ (sub8 w v).toNat ≤ (sub8 w u).toNat)

/-- R69 at word level: `ADD(SUB(p, q), q)` is the per-channel maximum and `SUB(p, SUB(p, q))` the per-channel minimum. -/
def Obligations.AddSubGiveMaxAndMin : Prop :=
  ∀ (s : State) (p q : Word), ∃ d mx mn, exec (.sub p q) s = .next d ∧
    exec (.add d.y0 q) d = .next mx ∧ exec (.sub p d.y0) d = .next mn ∧
    mx.y0.toNat = laneNumber max p q ∧ mn.y0.toNat = laneNumber min p q

/-- R70: ADD equals plain 32-bit addition exactly when no lane's sum exceeds 255, and SUB equals plain 32-bit subtraction
exactly when no lane's difference is negative; the rule's operands show both differ. -/
def Obligations.PlainArithmeticOnlyWithoutClamping : Prop :=
  (∀ (s : State) (p q : Word), ∃ a d, exec (.add p q) s = .next a ∧ exec (.sub p q) s = .next d ∧
    (a.y0 = p + q ↔ NoLaneClamps (fun u v => u + v) p q) ∧
    (d.y0 = p - q ↔ NoLaneClamps (fun u v => u - v) p q)) ∧
  (0x8C5F77AD#32 + 0xCC375D5F#32 = 0x5896D50C#32 ∧ 0x8C5F77AD#32 - 0xCC375D5F#32 = 0xC0281A4E#32) ∧
  (∀ s : State, ∃ a d, exec (.add 0x8C5F77AD#32 0xCC375D5F#32) s = .next a ∧ a.y0 = 0xFF96D4FF#32 ∧
    exec (.sub 0x8C5F77AD#32 0xCC375D5F#32) s = .next d ∧ d.y0 = 0x00281A4E#32)

-- ---- The host: lists of requests, instances, sequences (20_memory.md, 30_encoding.md, 70_reset_and_hazards.md) ----

/-- R87, R13: the first request after reset is answered like the same request presented in any other state. -/
def Obligations.FirstRequestAnsweredLikeAnyOther : Prop :=
  ∀ (s : State) (r : Request), outcomeResponse (step (s.present r)) = respond r

/-- R89, R93: from any state, a list of defined requests is answered to its end, each response being that of its own request;
a list with an undefined request in it is refused as a whole (deduced from R42, log 4). -/
def Obligations.BackToBackRequestsIndependent : Prop :=
  ∀ (s : State) (rs : List Request),
    ((∀ r ∈ rs, r.defined) → ∃ t ys, serve s rs = .next (t, ys) ∧ ys.map some = rs.map respond) ∧
    ((∃ r ∈ rs, ¬ r.defined) → serve s rs = .refused .reservedOp)

/-- R33: the responses to a set of requests are the same whatever the order in which the requests are evaluated. -/
def Obligations.EvaluationOrderDoesNotMatter : Prop :=
  ∀ (s s' : State) (rs rs' : List Request), rs.Perm rs' → (∀ r ∈ rs, r.defined) →
    ∃ t ys t' ys', serve s rs = .next (t, ys) ∧ serve s' rs' = .next (t', ys') ∧ (rs.zip ys).Perm (rs'.zip ys')

/-- R35: `n` instances answer `n` requests exactly as one instance answers them one after another. (How instances are
evaluated together is the model's choice, log 11.) -/
def Obligations.InstancesAnswerAsOneInstance : Prop :=
  ∀ (units : List (State × Request)) (s : State), (∀ u ∈ units, u.2.defined) →
    ∃ ts t ys, serveInstances units = .next ts ∧ serve s (units.map Prod.snd) = .next (t, ys) ∧ ts.map State.response = ys

/-- R45: the line `c = ADD p, q` stands for the request `(op=4, x0=p, x1=q, x2=0, x3=0)` and binds `c` to its `y0`. -/
def Obligations.AddLineBindsResult : Prop :=
  ∀ (s : State) (env : Env) (c p q : Name) (v w : Word), env.lookup p = some v → env.lookup q = some w →
    c ∉ boundNames env →
    ∃ t, step (s.present ⟨4#3, v, w, 0#32, 0#32⟩) = .next t ∧
      runLine s env ⟨[c], .add, [.name p, .name q]⟩ = .ok (t, env ++ [(c, t.y0)])

/-- R45, R93: a well-formed request sequence runs to its end and binds exactly the names of its lines, leaving earlier bindings.
(That host inputs count as bound names is the model's choice, log 10.) -/
def Obligations.WellFormedSequenceCompletes : Prop :=
  ∀ (s : State) (env : Env) (ls : List Line), sequenceWellFormed (boundNames env) ls = true →
    ∃ t env', runSequence s env ls = .ok (t, env') ∧ env <+: env' ∧
      boundNames env' = boundNames env ++ ls.flatMap Line.results

/-- R13, R93: the end state of a sequence is its bindings alone; it does not depend on what stood on the ports before. -/
def Obligations.SequenceIndependentOfEarlierPorts : Prop :=
  ∀ (s s' : State) (env : Env) (ls : List Line),
    (runSequence s env ls).map Prod.snd = (runSequence s' env ls).map Prod.snd

-- ---- An implementation with LATENCY > 0 (70_reset_and_hazards.md R86, R90; log 9) ----

/-- R90, R6: a unit with the spec's default latency, in whatever state, has the response to every request available with the
request, equal to what the machine shows when the same request is presented to it; a request with the reserved code is refused
when it is presented (the model's choice, log 9). -/
def Obligations.LatencyZeroIsCombinational : Prop :=
  (∀ (p : Pipe) (r : Request), p.inFlight.length = Config.latency → r.defined →
    ∃ p', pipeTick p (some r) = .next p' ∧ respond r = some p'.out ∧ (∀ s : State, (s.present r).response = p'.out) ∧
      p'.inFlight.length = Config.latency) ∧
  (∀ (p : Pipe) (r : Request), ¬ r.defined → pipeTick p (some r) = .refused .reservedOp)

/-- R86, R90: from power-up and from any reset, with any latency, and with any cycles in which no request is presented, the
response to a request appears exactly `latency` cycles after it: in request order, one response per request. (Cycles without a
request are the model's choice, log 9.) -/
def Obligations.PipelineAnswersInOrderAfterLatency : Prop :=
  ∀ (latency : Nat) (p : Pipe) (cycles : List (Option Request)),
    (p = pipePowerUp latency ∨ ∃ old : Pipe, old.inFlight.length = latency ∧ p = pipeReset old) →
    (∀ r, some r ∈ cycles → r.defined) →
    ∃ p' ys, pipeRun p cycles = .next (p', ys) ∧ ys.length = cycles.length ∧
      ∀ k r, cycles[k]? = some (some r) → k + latency < cycles.length → ys[k + latency]? = respond r

/-- R86, R90, R92: a pipelined unit always holds exactly `latency` stages, and only requests a host may present. (The stages are the
model's form of it, log 9.) -/
def Obligations.PipelineStaysLegal : Prop :=
  (∀ latency : Nat, PipeLegal latency (pipePowerUp latency)) ∧
  (∀ (latency : Nat) (p p' : Pipe) (c : Option Request),
    PipeLegal latency p → pipeTick p c = .next p' → PipeLegal latency p') ∧
  (∀ (latency : Nat) (p : Pipe), PipeLegal latency p → PipeLegal latency (pipeReset p))

/-- R86, R90: one cycle of ANY legal pipelined unit, whatever is in flight: the oldest stage leaves and, if it holds a request,
the result ports carry the response to that request; what is presented enters last; the unit stays legal. A cycle with a defined
request or with none completes. (The stages and the cycles without a request are the model's form, log 9.) -/
def Obligations.PipelineCycleEmitsOldestRequest : Prop :=
  ∀ (latency : Nat) (p : Pipe) (c : Option Request), PipeLegal latency p →
    ((∀ r, c = some r → r.defined) → ∃ p', pipeTick p c = .next p') ∧
    (∀ p', pipeTick p c = .next p' → PipeLegal latency p' ∧
      ∃ oldest, p.inFlight ++ [c] = oldest :: p'.inFlight ∧ ∀ q, oldest = some q → respond q = some p'.out)

/-- R84, R86: after a reset nothing of the requests that were in flight is left: two units with as many stages run alike from
there, under the same free values. (The counter that numbers them is the model's, log 9.) -/
def Obligations.ResetDiscardsRequestsInFlight : Prop :=
  ∀ (p p' : Pipe) (cycles : List (Option Request)), p.inFlight.length = p'.inFlight.length → p.cycle = p'.cycle →
    pipeRun (pipeReset p) cycles = pipeRun (pipeReset p') cycles
end

