-- ==== Sys2Proof/Laws/Operands.lean ====
section
/-! SUPPORT. The operand forms and the lane functions as arithmetic on their values (R7, R9, R66). -/

namespace Sys2Proof.Machine

theorem chA_toNat (c : Word) : (chA c).toNat = c.toNat / 16777216 := by
  simp only [chA, Config.offA, Config.channelBits, BitVec.extractLsb'_toNat, Nat.shiftRight_eq_div_pow]
  have := c.isLt
  omega

theorem chR_toNat (c : Word) : (chR c).toNat = c.toNat / 65536 % 256 := by
  simp [chR, Config.offR, Config.channelBits, BitVec.extractLsb'_toNat, Nat.shiftRight_eq_div_pow]

theorem chG_toNat (c : Word) : (chG c).toNat = c.toNat / 256 % 256 := by
  simp [chG, Config.offG, Config.channelBits, BitVec.extractLsb'_toNat, Nat.shiftRight_eq_div_pow]

theorem chB_toNat (c : Word) : (chB c).toNat = c.toNat % 256 := by
  simp [chB, Config.offB, Config.channelBits, BitVec.extractLsb'_toNat]

theorem lo8_toNat (x : Word) : (lo8 x).toNat = x.toNat % 256 := by
  have h : x.toNat &&& 255 = x.toNat % 2 ^ 8 := Nat.and_two_pow_sub_one_eq_mod x.toNat 8
  rw [lo8, BitVec.toNat_setWidth, BitVec.toNat_and]
  show (x.toNat &&& 255) % 2 ^ 8 = _
  omega

theorem pack_toNat (a r g b : Channel) :
    (pack a r g b).toNat = ((a.toNat * 256 + r.toNat) * 256 + g.toNat) * 256 + b.toNat := by
  have hr := r.isLt
  have hg := g.isLt
  have hb := b.isLt
  simp only [pack, BitVec.toNat_append]
  rw [← Nat.shiftLeft_add_eq_or_of_lt hr, ← Nat.shiftLeft_add_eq_or_of_lt hg, ← Nat.shiftLeft_add_eq_or_of_lt hb]
  simp only [Nat.shiftLeft_eq]

/-- Packing puts each channel back where its field function finds it. -/
theorem chA_pack (a r g b : Channel) : chA (pack a r g b) = a := by
  apply BitVec.eq_of_toNat_eq
  rw [chA_toNat, pack_toNat]
  omega

theorem chR_pack (a r g b : Channel) : chR (pack a r g b) = r := by
  apply BitVec.eq_of_toNat_eq
  rw [chR_toNat, pack_toNat]
  omega

theorem chG_pack (a r g b : Channel) : chG (pack a r g b) = g := by
  apply BitVec.eq_of_toNat_eq
  rw [chG_toNat, pack_toNat]
  omega

theorem chB_pack (a r g b : Channel) : chB (pack a r g b) = b := by
  apply BitVec.eq_of_toNat_eq
  rw [chB_toNat, pack_toNat]
  omega

/-- A word is its four channels. -/
theorem pack_fields (c : Word) : pack (chA c) (chR c) (chG c) (chB c) = c := by
  apply BitVec.eq_of_toNat_eq
  rw [pack_toNat, chA_toNat, chR_toNat, chG_toNat, chB_toNat]
  have := c.isLt
  omega

/-- The masks and shifts of R49 pack the four low bytes. -/
theorem implodeWord_eq_pack (a r g b : Word) : implodeWord a r g b = pack (lo8 a) (lo8 r) (lo8 g) (lo8 b) := by
  apply BitVec.eq_of_getLsbD_eq
  intro i hi
  simp only [implodeWord, pack, lo8, Config.channelMask, Config.offA, Config.offR, Config.offG, BitVec.getLsbD_append,
    BitVec.getLsbD_or, BitVec.getLsbD_and, BitVec.getLsbD_shiftLeft, BitVec.getLsbD_setWidth]
  interval_cases i <;> simp

/-- The masked bit-clear-and-or of R56 replaces the alpha field. -/
theorem setAlphaWord_eq_pack (c alpha : Word) : setAlphaWord c alpha = pack (lo8 alpha) (chR c) (chG c) (chB c) := by
  apply BitVec.eq_of_getLsbD_eq
  intro i hi
  simp only [setAlphaWord, pack, lo8, chR, chG, chB, Config.channelMask, Config.offA, Config.offR, Config.offG, Config.offB,
    Config.channelBits, BitVec.getLsbD_append, BitVec.getLsbD_or, BitVec.getLsbD_and, BitVec.getLsbD_shiftLeft,
    BitVec.getLsbD_setWidth, BitVec.getLsbD_extractLsb']
  interval_cases i <;> simp

theorem channel_zext_toNat (u : Channel) : (u.setWidth 32).toNat = u.toNat := by
  have := u.isLt
  rw [BitVec.toNat_setWidth]
  omega

/-- The exact product of two channels fits 16 bits (R66). -/
theorem channel_product_le (u v : Channel) : u.toNat * v.toNat ≤ 65025 :=
  Nat.mul_le_mul (Nat.le_of_lt_succ u.isLt) (Nat.le_of_lt_succ v.isLt)

theorem add8_toNat (u v : Channel) : (add8 u v).toNat = min (u.toNat + v.toNat) 255 := by
  simp only [add8, satHi, chanInt, Config.satMax, BitVec.toNat_ofInt]
  omega

theorem sub8_toNat (u v : Channel) : (sub8 u v).toNat = u.toNat - v.toNat := by
  have := u.isLt
  simp only [sub8, satLo, chanInt, Config.satMin, BitVec.toNat_ofInt]
  omega

theorem mul8_toNat (u v : Channel) : (mul8 u v).toNat = u.toNat * v.toNat / 255 := by
  have h := channel_product_le u v
  have hd : ((u.toNat : Int) * (v.toNat : Int)).tdiv 255 = ((u.toNat * v.toNat / 255 : Nat) : Int) := by
    rw [← Int.natCast_mul]
    rfl
  simp only [mul8, clamp, chanInt, Config.mulDivisor, Config.satMax, Config.satMin, BitVec.toNat_ofInt, hd]
  generalize u.toNat * v.toNat = t at *
  omega

/-- The four channels of a lane result: each is `f` of the corresponding channels, whatever the others are (R59). -/
theorem chA_lanes (f : Channel → Channel → Channel) (p q : Word) : chA (lanes f p q) = f (chA p) (chA q) := chA_pack ..
theorem chR_lanes (f : Channel → Channel → Channel) (p q : Word) : chR (lanes f p q) = f (chR p) (chR q) := chR_pack ..
theorem chG_lanes (f : Channel → Channel → Channel) (p q : Word) : chG (lanes f p q) = f (chG p) (chG q) := chG_pack ..
theorem chB_lanes (f : Channel → Channel → Channel) (p q : Word) : chB (lanes f p q) = f (chB p) (chB q) := chB_pack ..

end Sys2Proof.Machine
end

