-- ==== Sys2Proof/Laws/Bytes.lean ====
section
/-! SUPPORT. The channels of a word and the byte values of Safety.lean are the same numbers. -/

namespace Sys2Proof.Machine

open Sys2Proof.Safety

theorem byteOf_lt (c : Word) (k : Nat) : byteOf c k < 256 := Nat.mod_lt _ (by decide)

theorem chA_eq_byteOf (c : Word) : (chA c).toNat = byteOf c 3 := by
  have := c.isLt
  rw [chA_toNat]
  simp only [byteOf]
  omega

theorem chR_eq_byteOf (c : Word) : (chR c).toNat = byteOf c 2 := by
  rw [chR_toNat]
  rfl

theorem chG_eq_byteOf (c : Word) : (chG c).toNat = byteOf c 1 := by
  rw [chG_toNat]
  simp only [byteOf, Nat.pow_one]

theorem chB_eq_byteOf (c : Word) : (chB c).toNat = byteOf c 0 := by
  rw [chB_toNat]
  simp only [byteOf, Nat.pow_zero, Nat.div_one]

theorem pack_eq_ofBytes (a r g b : Channel) : (pack a r g b).toNat = ofBytes a.toNat r.toNat g.toNat b.toNat :=
  pack_toNat a r g b

/-- A lane result as a number, for a lane function known by its values. -/
theorem lanes_eq_laneNumber (f : Channel → Channel → Channel) (g : Nat → Nat → Nat)
    (h : ∀ u v, (f u v).toNat = g u.toNat v.toNat) (p q : Word) : (lanes f p q).toNat = laneNumber g p q := by
  simp only [lanes, pack_eq_ofBytes, h, chA_eq_byteOf, chR_eq_byteOf, chG_eq_byteOf, chB_eq_byteOf, laneNumber]

end Sys2Proof.Machine
end

