-- ==== Sys2Proof/Laws/PerInstr.lean ====
section
/-! SUPPORT. Family OpField: the three most significant bits of an instruction's request string are its operation code
(30_encoding.md R37, R38), one lemma per constructor. -/

namespace Sys2Proof

/-- The `op` field of the string of a request is the request's `op` (R37). -/
theorem Laws.opField_toBits (r : Request) : r.toBits.extractLsb' 128 3 = r.op := by
  apply BitVec.eq_of_getLsbD_eq
  intro i hi
  simp only [Request.toBits, BitVec.getLsbD_extractLsb', BitVec.getLsbD_append]
  interval_cases i <;> simp

end Sys2Proof

namespace Sys2Proof.Laws.OpField

/-- The string of `i` carries the code of `i` in its `op` field. -/
def Statement (i : Instr) : Prop := (encode i).extractLsb' 128 3 = i.opcode

theorem explode (color : Word) : Statement (.explode color) := Laws.opField_toBits _
theorem implode (a r g b : Word) : Statement (.implode a r g b) := Laws.opField_toBits _
theorem reverse (color : Word) : Statement (.reverse color) := Laws.opField_toBits _
theorem setalpha (color alpha : Word) : Statement (.setalpha color alpha) := Laws.opField_toBits _
theorem add (color1 color2 : Word) : Statement (.add color1 color2) := Laws.opField_toBits _
theorem sub (color1 color2 : Word) : Statement (.sub color1 color2) := Laws.opField_toBits _
theorem mul (color1 color2 : Word) : Statement (.mul color1 color2) := Laws.opField_toBits _
theorem reserved : Statement .reserved := Laws.opField_toBits _

end Sys2Proof.Laws.OpField
end

