-- ==== Sys2Proof/Laws/State.lean ====
section
/-! SUPPORT. The ports field by field: what `State.withInputs` and `State.drive` leave on each port, and what the request and the
response of a state are. -/

namespace Sys2Proof.Machine

@[simp] theorem withInputs_op (s : State) (r : Request) : (s.withInputs r).op = r.op := rfl
@[simp] theorem withInputs_x0 (s : State) (r : Request) : (s.withInputs r).x0 = r.x0 := rfl
@[simp] theorem withInputs_x1 (s : State) (r : Request) : (s.withInputs r).x1 = r.x1 := rfl
@[simp] theorem withInputs_x2 (s : State) (r : Request) : (s.withInputs r).x2 = r.x2 := rfl
@[simp] theorem withInputs_x3 (s : State) (r : Request) : (s.withInputs r).x3 = r.x3 := rfl
@[simp] theorem withInputs_y0 (s : State) (r : Request) : (s.withInputs r).y0 = s.y0 := rfl
@[simp] theorem withInputs_y1 (s : State) (r : Request) : (s.withInputs r).y1 = s.y1 := rfl
@[simp] theorem withInputs_y2 (s : State) (r : Request) : (s.withInputs r).y2 = s.y2 := rfl
@[simp] theorem withInputs_y3 (s : State) (r : Request) : (s.withInputs r).y3 = s.y3 := rfl

@[simp] theorem drive_op (s : State) (y : Response) : (s.drive y).op = s.op := rfl
@[simp] theorem drive_x0 (s : State) (y : Response) : (s.drive y).x0 = s.x0 := rfl
@[simp] theorem drive_x1 (s : State) (y : Response) : (s.drive y).x1 = s.x1 := rfl
@[simp] theorem drive_x2 (s : State) (y : Response) : (s.drive y).x2 = s.x2 := rfl
@[simp] theorem drive_x3 (s : State) (y : Response) : (s.drive y).x3 = s.x3 := rfl
@[simp] theorem drive_y0 (s : State) (y : Response) : (s.drive y).y0 = y.y0 := rfl
@[simp] theorem drive_y1 (s : State) (y : Response) : (s.drive y).y1 = y.y1 := rfl
@[simp] theorem drive_y2 (s : State) (y : Response) : (s.drive y).y2 = y.y2 := rfl
@[simp] theorem drive_y3 (s : State) (y : Response) : (s.drive y).y3 = y.y3 := rfl

@[simp] theorem withInputs_request (s : State) (r : Request) : (s.withInputs r).request = r := rfl
@[simp] theorem withInputs_response (s : State) (r : Request) : (s.withInputs r).response = s.response := rfl
@[simp] theorem drive_request (s : State) (y : Response) : (s.drive y).request = s.request := rfl
@[simp] theorem drive_response (s : State) (y : Response) : (s.drive y).response = y := rfl

@[simp] theorem request_op (s : State) : s.request.op = s.op := rfl
@[simp] theorem request_x0 (s : State) : s.request.x0 = s.x0 := rfl
@[simp] theorem request_x1 (s : State) : s.request.x1 = s.x1 := rfl
@[simp] theorem request_x2 (s : State) : s.request.x2 = s.x2 := rfl
@[simp] theorem request_x3 (s : State) : s.request.x3 = s.x3 := rfl
@[simp] theorem response_y0 (s : State) : s.response.y0 = s.y0 := rfl
@[simp] theorem response_y1 (s : State) : s.response.y1 = s.y1 := rfl
@[simp] theorem response_y2 (s : State) : s.response.y2 = s.y2 := rfl
@[simp] theorem response_y3 (s : State) : s.response.y3 = s.y3 := rfl

@[simp] theorem colorResponse_y0 (c : Word) : (colorResponse c).y0 = c := rfl
@[simp] theorem colorResponse_y1 (c : Word) : (colorResponse c).y1 = 0#32 := rfl
@[simp] theorem colorResponse_y2 (c : Word) : (colorResponse c).y2 = 0#32 := rfl
@[simp] theorem colorResponse_y3 (c : Word) : (colorResponse c).y3 = 0#32 := rfl

@[simp] theorem channelResponse_y0 (a r g b : Channel) : (channelResponse a r g b).y0 = a.setWidth 32 := rfl
@[simp] theorem channelResponse_y1 (a r g b : Channel) : (channelResponse a r g b).y1 = r.setWidth 32 := rfl
@[simp] theorem channelResponse_y2 (a r g b : Channel) : (channelResponse a r g b).y2 = g.setWidth 32 := rfl
@[simp] theorem channelResponse_y3 (a r g b : Channel) : (channelResponse a r g b).y3 = b.setWidth 32 := rfl

/-- A state is its request and its response, and nothing more (R13, R24). -/
theorem state_ext_ports {s t : State} (hr : s.request = t.request) (hy : s.response = t.response) : s = t := by
  cases s
  cases t
  simp_all [State.request, State.response]

/-- Everything `answer` can do: it completes, driving exactly the result ports. -/
theorem answer_next (y : Response) (s : State) : answer y s = .next (s.drive y) := rfl

/-- Driving the result ports discards what they carried before. -/
theorem drive_eq_of_request {s s' : State} (h : s.request = s'.request) (y : Response) : s.drive y = s'.drive y :=
  state_ext_ports (by simpa using h) rfl

end Sys2Proof.Machine
end

