-- ==== Sys2Proof/Laws/Step.lean ====
section
/-! SUPPORT. What an instruction, a step and a served list can do, said once. -/

namespace Sys2Proof.Machine

/-- The response an operation gives, as a function of the decoded request; none for the reserved code. -/
theorem exec_explode (c : Word) (s : State) :
    exec (.explode c) s = .next (s.drive (channelResponse (chA c) (chR c) (chG c) (chB c))) := rfl

theorem exec_implode (a r g b : Word) (s : State) :
    exec (.implode a r g b) s = .next (s.drive (colorResponse (implodeWord a r g b))) := rfl

theorem exec_reverse (c : Word) (s : State) : exec (.reverse c) s = .next (s.drive (colorResponse (reverseWord c))) := rfl

theorem exec_setalpha (c al : Word) (s : State) :
    exec (.setalpha c al) s = .next (s.drive (colorResponse (setAlphaWord c al))) := rfl

theorem exec_add (p q : Word) (s : State) : exec (.add p q) s = .next (s.drive (colorResponse (lanes add8 p q))) := rfl

theorem exec_sub (p q : Word) (s : State) : exec (.sub p q) s = .next (s.drive (colorResponse (lanes sub8 p q))) := rfl

theorem exec_mul (p q : Word) (s : State) : exec (.mul p q) s = .next (s.drive (colorResponse (lanes mul8 p q))) := rfl

theorem exec_reserved (s : State) : exec .reserved s = .refused .reservedOp := rfl

/-- Everything an instruction can do: drive the result ports with a response that depends on the instruction alone, or be
refused as the reserved code. -/
theorem exec_cases (i : Instr) :
    (∃ y, ∀ s, exec i s = .next (s.drive y)) ∨ (i = .reserved ∧ ∀ s, exec i s = .refused .reservedOp) := by
  cases i with
  | reserved => exact .inr ⟨rfl, fun _ => rfl⟩
  | _ => exact .inl ⟨_, fun _ => rfl⟩

/-- The eight values of the port `op`. -/
theorem op_cases (o : OpCode) :
    o = 0#3 ∨ o = 1#3 ∨ o = 2#3 ∨ o = 3#3 ∨ o = 4#3 ∨ o = 5#3 ∨ o = 6#3 ∨ o = 7#3 := by
  revert o
  decide

/-- The decoder reads the reserved code from `op = 7` alone. -/
theorem decode_wellFormed_iff (r : Request) : (decode r).wellFormed = true ↔ r.op ≠ 7#3 := by
  obtain ⟨o, x0, x1, x2, x3⟩ := r
  obtain rfl | rfl | rfl | rfl | rfl | rfl | rfl | rfl := op_cases o <;> simp [decode, Instr.wellFormed]

/-- Presenting a request puts it on the input ports, whatever it is. -/
@[simp] theorem present_request (s : State) (r : Request) : (s.present r).request = r := by
  obtain ⟨y, hy⟩ | ⟨_, hy⟩ := exec_cases (decode r)
  · simp only [State.present, hy, drive_request, withInputs_request]
  · simp only [State.present, hy, drive_request, withInputs_request]

@[simp] theorem present_op (s : State) (r : Request) : (s.present r).op = r.op := congrArg Request.op (present_request s r)
@[simp] theorem present_x0 (s : State) (r : Request) : (s.present r).x0 = r.x0 := congrArg Request.x0 (present_request s r)
@[simp] theorem present_x1 (s : State) (r : Request) : (s.present r).x1 = r.x1 := congrArg Request.x1 (present_request s r)
@[simp] theorem present_x2 (s : State) (r : Request) : (s.present r).x2 = r.x2 := congrArg Request.x2 (present_request s r)
@[simp] theorem present_x3 (s : State) (r : Request) : (s.present r).x3 = r.x3 := congrArg Request.x3 (present_request s r)

/-- Driving twice leaves the second response. -/
@[simp] theorem drive_drive (s : State) (y z : Response) : (s.drive y).drive z = s.drive z := rfl

/-- A step on a defined request, said once: presented in any state, its one response stands on the result ports
at once (R26), and a step confirms it. -/
theorem step_present_defined {r : Request} (h : r.op ≠ 7#3) :
    ∃ y, respond r = some y ∧ ∀ s : State, s.present r = (s.withInputs r).drive y ∧ step (s.present r) = .next (s.present r) := by
  obtain ⟨y, hy⟩ | ⟨hi, _⟩ := exec_cases (decode r)
  · have hp : ∀ s : State, s.present r = (s.withInputs r).drive y := fun s => by simp only [State.present, hy]
    have hs : ∀ s : State, step (s.present r) = .next (s.present r) := fun s => by
      rw [step, present_request, hy, hp, drive_drive]
    refine ⟨y, ?_, fun s => ⟨hp s, hs s⟩⟩
    rw [respond, hs, hp]
    rfl
  · have hw := (decode_wellFormed_iff r).2 h
    rw [hi] at hw
    cases hw

/-- A step on the reserved code. -/
theorem step_present_reserved {r : Request} (h : r.op = 7#3) (s : State) : step (s.present r) = .refused .reservedOp := by
  have hd : decode r = .reserved := by simp [decode, h]
  rw [step, present_request, hd]
  rfl

/-- What a step from any state can answer next: its own request's response, driven. -/
theorem step_next_inv {s t : State} (h : step s = .next t) :
    ∃ y, (∀ u, exec (decode s.request) u = .next (u.drive y)) ∧ t = s.drive y := by
  obtain ⟨y, hy⟩ | ⟨_, hy⟩ := exec_cases (decode s.request)
  · rw [step, hy] at h
    cases h
    exact ⟨y, hy, rfl⟩
  · rw [step, hy] at h
    cases h

/-- One stage leaves and one enters. -/
theorem pipeAdvance_spec (p : Pipe) (e : Option Request) :
    ∃ oldest rest, p.inFlight ++ [e] = oldest :: rest ∧ pipeAdvance p e = ⟨rest, emitted p.cycle oldest, p.cycle + 1⟩ := by
  cases h : p.inFlight ++ [e] with
  | nil => simp at h
  | cons o q => exact ⟨o, q, rfl, by simp only [pipeAdvance, h]⟩

/-- A cycle with a defined request, or with none, completes. -/
theorem pipeTick_next (p : Pipe) (c : Option Request) (h : ∀ r, c = some r → r.defined) :
    pipeTick p c = .next (pipeAdvance p c) := by
  cases c with
  | none => rfl
  | some r =>
    obtain ⟨y, _, hs⟩ := step_present_defined (h r rfl)
    simp only [pipeTick, (hs State.reset).2]

end Sys2Proof.Machine
end

