-- ==== Sys2Proof/Tests/Slice0.lean ====
section
/-! SUPPORT. Tests of the model's own work: the well-formedness smoke test, decoding of words written out from the encoding,
the vectors of 95_test_vectors.md, and for every statement with hypotheses a state and operands that meet them. -/

namespace Sys2Proof.Tests

open Sys2Proof.Machine Sys2Proof.Safety

-- ---- WellFormed: the one check, and terms that pass it ----

theorem test_reserved_is_ill_formed : Instr.wellFormed .reserved = false := by decide
theorem test_add_is_well_formed : Instr.wellFormed (.add 0xFFFFFFFF#32 0#32) = true := by decide
/-- A line with an operand too few, an unbound operand, a name bound twice, or a result too few is no line of R45. -/
theorem test_line_checks_refuse :
    lineWellFormed [['p']] ⟨[['c']], .add, [.name ['p']]⟩ = false ∧
    lineWellFormed [['p']] ⟨[['c']], .add, [.name ['p'], .name ['q']]⟩ = false ∧
    lineWellFormed [['p']] ⟨[['p']], .add, [.name ['p'], .lit 1]⟩ = false ∧
    lineWellFormed [['p']] ⟨[['c']], .explode, [.name ['p']]⟩ = false := by decide

-- ---- Decoding: each string is written out field by field, `op` then x3, x2, x1, x0 (R37, R38, R39) ----

/-- op = 000, color on x0; x1..x3 are don't-care (R43). -/
theorem test_decode_explode :
    decodeBits (0b000#3 ++ 0xFFFFFFFF#32 ++ 0x12345678#32 ++ 0xDEADBEEF#32 ++ 0x8C5F77AD#32) = .explode 0x8C5F77AD#32 := by decide
/-- op = 001, a r g b on x0 x1 x2 x3. -/
theorem test_decode_implode :
    decodeBits (0b001#3 ++ 0xAD#32 ++ 0x77#32 ++ 0x5F#32 ++ 0x8C#32) = .implode 0x8C#32 0x5F#32 0x77#32 0xAD#32 := by decide
/-- op = 010, color on x0. -/
theorem test_decode_reverse :
    decodeBits (0b010#3 ++ 0xFFFFFFFF#32 ++ 0xFFFFFFFF#32 ++ 0xFFFFFFFF#32 ++ 0x00FF0000#32) = .reverse 0x00FF0000#32 := by decide
/-- op = 011, color on x0, alpha on x1. -/
theorem test_decode_setalpha :
    decodeBits (0b011#3 ++ 0x00000001#32 ++ 0xFFFFFFFF#32 ++ 0xCC#32 ++ 0x8C5F77AD#32) = .setalpha 0x8C5F77AD#32 0xCC#32 := by decide
/-- op = 100, color1 on x0, color2 on x1. -/
theorem test_decode_add :
    decodeBits (0b100#3 ++ 0x55555555#32 ++ 0xAAAAAAAA#32 ++ 0xCC375D5F#32 ++ 0x8C5F77AD#32) = .add 0x8C5F77AD#32 0xCC375D5F#32 := by decide
/-- op = 101, minuend on x0, subtrahend on x1. -/
theorem test_decode_sub :
    decodeBits (0b101#3 ++ 0#32 ++ 0xFFFFFFFF#32 ++ 0xCC375D5F#32 ++ 0x8C5F77AD#32) = .sub 0x8C5F77AD#32 0xCC375D5F#32 := by decide
/-- op = 110, color1 on x0, color2 on x1. -/
theorem test_decode_mul :
    decodeBits (0b110#3 ++ 0xFFFFFFFF#32 ++ 0#32 ++ 0xCC375D5F#32 ++ 0x8C5F77AD#32) = .mul 0x8C5F77AD#32 0xCC375D5F#32 := by decide
/-- op = 111, reserved, beside its nearest accepted neighbour 110 above. -/
theorem test_decode_reserved :
    decodeBits (0b111#3 ++ 0#32 ++ 0#32 ++ 0xCC375D5F#32 ++ 0x8C5F77AD#32) = .reserved := by decide
/-- The table's words of `op`, bit 0 least significant, and a number that is no value of the port. -/
theorem test_table_words :
    decodeTableWord 8 0 = some (.explode 0#32) ∧ decodeTableWord 8 1 = some (.implode 0#32 0#32 0#32 0#32) ∧
    decodeTableWord 8 2 = some (.reverse 0#32) ∧ decodeTableWord 8 3 = some (.setalpha 0#32 0#32) ∧
    decodeTableWord 8 4 = some (.add 0#32 0#32) ∧ decodeTableWord 8 5 = some (.sub 0#32 0#32) ∧
    decodeTableWord 8 6 = some (.mul 0#32 0#32) ∧ decodeTableWord 8 7 = some .reserved ∧ decodeTableWord 8 8 = none := by decide
/-- Sequence P1 line 2 of 95_test_vectors.md, encoded: the string the spec prints. -/
theorem test_encode_implode :
    encode (.implode 0x8C#32 0x5F#32 0x77#32 0xAD#32) = 0x1000000AD000000770000005F0000008C#131 := by decide
/-- The response string of a response with four different bytes, `y3` most significant (R37). -/
theorem test_response_string :
    (Response.mk 0x8C#32 0x5F#32 0x77#32 0xAD#32).toBits = 0x000000AD000000770000005F0000008C#128 := by decide

-- ---- Instructions: vectors of 95_test_vectors.md sections 1 and 2 ----

/-- S8-2. -/
theorem test_explode_source :
    respond ⟨0#3, 0x8C5F77AD#32, 0#32, 0#32, 0#32⟩ = some ⟨0x8C#32, 0x5F#32, 0x77#32, 0xAD#32⟩ := by decide
/-- 2.2: bit 31 set, no sign extension. -/
theorem test_explode_top_bit :
    respond ⟨0#3, 0x80000000#32, 0#32, 0#32, 0#32⟩ = some ⟨0x80#32, 0#32, 0#32, 0#32⟩ := by decide
/-- S8-4. -/
theorem test_implode_source :
    respond ⟨1#3, 0x8C#32, 0x5F#32, 0x77#32, 0xAD#32⟩ = some ⟨0x8C5F77AD#32, 0#32, 0#32, 0#32⟩ := by decide
/-- 2.3: high bits of channel operands ignored. -/
theorem test_implode_masks :
    respond ⟨1#3, 0xFFFFFF00#32, 0xFFFFFF01#32, 0x80000080#32, 0x7FFFFF7F#32⟩ = some ⟨0x0001807F#32, 0#32, 0#32, 0#32⟩ := by decide
/-- S8-6. -/
theorem test_reverse_source :
    respond ⟨2#3, 0x8C5F77AD#32, 0#32, 0#32, 0#32⟩ = some ⟨0xAD775F8C#32, 0#32, 0#32, 0#32⟩ := by decide
/-- 2.4: bytes move, bits within a byte do not. -/
theorem test_reverse_bytes_not_bits :
    respond ⟨2#3, 0x80000001#32, 0#32, 0#32, 0#32⟩ = some ⟨0x01000080#32, 0#32, 0#32, 0#32⟩ := by decide
/-- S8-7. -/
theorem test_setalpha_source :
    respond ⟨3#3, 0x8C5F77AD#32, 0xCC#32, 0#32, 0#32⟩ = some ⟨0xCC5F77AD#32, 0#32, 0#32, 0#32⟩ := by decide
/-- 2.5: alpha 0x100 masks to 0, and other ports are don't-care. -/
theorem test_setalpha_masks :
    respond ⟨3#3, 0x8C5F77AD#32, 0x100#32, 0xFFFFFFFF#32, 1#32⟩ = some ⟨0x005F77AD#32, 0#32, 0#32, 0#32⟩ := by decide
/-- S8-10. -/
theorem test_add_source :
    respond ⟨4#3, 0x8C5F77AD#32, 0xCC375D5F#32, 0#32, 0#32⟩ = some ⟨0xFF96D4FF#32, 0#32, 0#32, 0#32⟩ := by decide
/-- 2.6: blue saturates, no carry into green. -/
theorem test_add_no_carry :
    respond ⟨4#3, 0x000000FF#32, 0x00000001#32, 0#32, 0#32⟩ = some ⟨0x000000FF#32, 0#32, 0#32, 0#32⟩ := by decide
/-- S8-12 as corrected by C1: first minus second. -/
theorem test_sub_source :
    respond ⟨5#3, 0x8C5F77AD#32, 0xCC375D5F#32, 0#32, 0#32⟩ = some ⟨0x00281A4E#32, 0#32, 0#32, 0#32⟩ := by decide
/-- 2.6: no borrow from green into blue. -/
theorem test_sub_no_borrow :
    respond ⟨5#3, 0x00000100#32, 0x00000001#32, 0#32, 0#32⟩ = some ⟨0x00000100#32, 0#32, 0#32, 0#32⟩ := by decide
/-- S8-15. -/
theorem test_mul_source :
    respond ⟨6#3, 0x8C5F77AD#32, 0xCC375D5F#32, 0#32, 0#32⟩ = some ⟨0x70142B40#32, 0#32, 0#32, 0#32⟩ := by decide
/-- 2.6: truncation, where rounding to nearest would give 0x40 in every lane. -/
theorem test_mul_truncates :
    respond ⟨6#3, 0x7F7F7F7F#32, 0x80808080#32, 0#32, 0#32⟩ = some ⟨0x3F3F3F3F#32, 0#32, 0#32, 0#32⟩ := by decide
/-- The refusal test of section 3. -/
theorem test_reserved_refused :
    step (State.reset.present ⟨7#3, 0x8C5F77AD#32, 0xCC375D5F#32, 0#32, 0#32⟩) = .refused .reservedOp := by rfl

-- ---- Request sequences: text and runs of 95_test_vectors.md section 3 ----

/-- A line of P1 and a line of P2 as the spec writes them, with a comment. -/
theorem test_text_of_lines :
    parseSequence "a, r, g, b     = EXPLODE  p\nc2             = SETALPHA a, 0x000001CC    -- out of range".toList =
      .ok [⟨[['a'], ['r'], ['g'], ['b']], .explode, [.name ['p']]⟩,
        ⟨[['c', '2']], .setalpha, [.name ['a'], .lit 0x1CC]⟩] := by decide
theorem test_text_refused : parseSequence "c = NOP p".toList = .error .badText := by decide

/-- The lines of P2, per-channel maximum and minimum. -/
def linesP2 : List Line :=
  [⟨[['d']], .sub, [.name ['p'], .name ['q']]⟩, ⟨[['m', 'x']], .add, [.name ['d'], .name ['q']]⟩,
    ⟨[['m', 'n']], .sub, [.name ['p'], .name ['d']]⟩]

/-- The host inputs of P2. -/
def inputsP2 : Env := [(['p'], 0x8C5F77AD#32), (['q'], 0xCC375D5F#32)]

theorem test_P2_bindings :
    (runSequence State.reset inputsP2 linesP2).map Prod.snd =
      .ok (inputsP2 ++ [(['d'], 0x00281A4E#32), (['m', 'x'], 0xCC5F77AD#32), (['m', 'n'], 0x8C375D5F#32)]) := by rfl

/-- One stage: the response to S8-6's request appears one cycle after it. -/
theorem test_pipeline_one_stage :
    (match pipeTick ⟨[some ⟨2#3, 0x8C5F77AD#32, 0#32, 0#32, 0#32⟩], ⟨0#32, 0#32, 0#32, 0#32⟩, 3⟩ none with
      | .next p => some (p.inFlight, p.out.y0)
      | .refused _ => none) = some ([none], 0xAD775F8C#32) := by rfl

-- ---- Witnesses: for each statement with hypotheses, values that meet them ----

/-- The request of S8-10 on the input ports, with the zeros of reset still on the result ports: a state no run reaches, where a
step can be seen to act. -/
def addState : State := State.reset.withInputs ⟨4#3, 0x8C5F77AD#32, 0xCC375D5F#32, 0#32, 0#32⟩

/-- `addState` after its step. -/
def addDone : State := addState.drive ⟨0xFF96D4FF#32, 0#32, 0#32, 0#32⟩

theorem witness_StringDefinedUnlessTopBitsSet :
    (2 ^ 131 - 2 ^ 128 - 1 < 2 ^ 131 ∧ (2 ^ 131 - 2 ^ 128 - 1) / 2 ^ 128 ≠ 7) ∧
    (2 ^ 131 - 2 ^ 128 < 2 ^ 131 ∧ (2 ^ 131 - 2 ^ 128) / 2 ^ 128 = 7) ∧ 2 ^ 131 ≤ 2 ^ 131 := by decide
theorem witness_DecodeEncodeAgree : Instr.wellFormed (.explode 0#32) = true := by decide
theorem witness_StepRunsDecodedInstruction :
    decode addState.request = .add 0x8C5F77AD#32 0xCC375D5F#32 ∧ decodeTableWord 8 6 = some (.mul 0#32 0#32) := by decide
theorem witness_StepAnswersExactlyDefinedRequests :
    addState.op ≠ 7#3 ∧ (State.reset.present ⟨7#3, 0#32, 0#32, 0#32, 0#32⟩).op = 7#3 := by decide
theorem witness_step_completes : step addState = .next addDone := by rfl
theorem witness_InputPortsNeverWritten : exec (.add 0x8C5F77AD#32 0xCC375D5F#32) addState = .next addDone := by rfl
theorem witness_ResponseDependsOnRequestAlone : addState.request = addDone.request ∧ addState ≠ addDone := by decide
theorem witness_RepeatedRequestSameResponse : step addState = .next addDone ∧ addState ≠ addDone := ⟨rfl, by decide⟩
theorem witness_EveryStepSettles : step addState = .next addDone ∧ State.reset.request.defined ∧ Settled State.reset :=
  ⟨rfl, by decide, by unfold Settled; decide⟩
theorem witness_UnusedResultPortsAreZero :
    (step State.reset = .next State.reset ∧ State.reset.op = 0#3) ∧ (step addState = .next addDone ∧ addState.op ≠ 0#3) :=
  ⟨⟨rfl, rfl⟩, rfl, by decide⟩
/-- S8-10 with other values on the ports ADD does not use. -/
theorem witness_UnusedOperandPortsIgnored :
    let r : Request := ⟨4#3, 1#32, 2#32, 0#32, 0#32⟩
    let r' : Request := ⟨4#3, 1#32, 2#32, 3#32, 4#32⟩
    r.op = r'.op ∧ (∀ k : Fin 4, usesPort r.op k = true → r.x k = r'.x k) ∧ r ≠ r' := by decide
/-- SETALPHA with alpha 0xCC and 0x1CC. -/
theorem witness_ChannelOperandHighBitsIgnored :
    let r : Request := ⟨3#3, 0x8C5F77AD#32, 0xCC#32, 0#32, 0#32⟩
    let r' : Request := ⟨3#3, 0x8C5F77AD#32, 0x1CC#32, 0#32, 0#32⟩
    r.op = r'.op ∧ (∀ k : Fin 4, if isChannelOperand r.op k = true then (r.x k).toNat % 256 = (r'.x k).toNat % 256
      else r.x k = r'.x k) ∧ r ≠ r' := by decide
/-- The word 0x04030201 is the reverse of 0x01020304, and of no other. -/
theorem witness_ReverseIsAnInvolution :
    ∃ t, exec (.reverse 0x01020304#32) State.reset = .next t ∧ t.y0 = 0x04030201#32 := ⟨_, rfl, by decide⟩
theorem witness_ReverseCommutesWithLanes : Instr.mul = Instr.add ∨ Instr.mul = Instr.sub ∨ Instr.mul = Instr.mul := by simp
/-- Lane 3 of one pair of words and lane 0 of another hold the same bytes, the other lanes differ. -/
theorem witness_LanesAreIndependent :
    (Instr.sub = Instr.add ∨ Instr.sub = Instr.sub ∨ Instr.sub = Instr.mul) ∧ (3 < 4 ∧ 0 < 4) ∧
    byteOf 0x8C112233#32 3 = byteOf 0x4455668C#32 0 ∧ byteOf 0xCC000000#32 3 = byteOf 0x000000CC#32 0 :=
  ⟨by simp, by decide, by decide, by decide⟩
theorem witness_ReservedCodeRefused :
    decode ⟨7#3, 0#32, 0#32, 0#32, 0#32⟩ = .reserved ∧ (Request.mk 6#3 0#32 0#32 0#32 0#32).defined := by decide
/-- Each hypothesis of the lane identities at its boundary: a sum of exactly 255, a sum of 256, equal operands. -/
theorem witness_LaneIdentities :
    (127#8).toNat + (128#8).toNat ≤ 255 ∧ 255 < (128#8).toNat + (128#8).toNat ∧ (128#8).toNat ≤ (128#8).toNat ∧
    (254#8).toNat ≤ (255#8).toNat := by decide
theorem witness_AddMulCommuteSubDoesNot : (0x12345678#32 : Word) = 0x12345678#32 := rfl
/-- Both sides of R70's condition: operands that clamp in no lane, and operands that do. -/
theorem witness_PlainArithmeticOnlyWithoutClamping :
    NoLaneClamps (fun u v => u + v) 0x01020304#32 0x10203040#32 ∧ ¬ NoLaneClamps (fun u v => u + v) 0x000000FF#32 0x00000001#32 ∧
    NoLaneClamps (fun u v => u - v) 0x10203040#32 0x01020304#32 ∧ ¬ NoLaneClamps (fun u v => u - v) 0x00000100#32 0x00000001#32 := by
  unfold NoLaneClamps
  decide

/-- Two requests of P4 and P1. -/
def twoRequests : List Request := [⟨6#3, 0xFF102030#32, 0xFF808080#32, 0#32, 0#32⟩, ⟨2#3, 0x8C5F77AD#32, 0#32, 0#32, 0#32⟩]

theorem witness_BackToBackRequestsIndependent :
    (∀ r ∈ twoRequests, r.defined) ∧ ∃ r ∈ [Request.mk 7#3 0#32 0#32 0#32 0#32], ¬ r.defined := by decide
theorem witness_EvaluationOrderDoesNotMatter :
    twoRequests.Perm twoRequests.reverse ∧ twoRequests ≠ twoRequests.reverse ∧ ∀ r ∈ twoRequests, r.defined :=
  ⟨(List.reverse_perm _).symm, by decide, by decide⟩
theorem witness_InstancesAnswerAsOneInstance :
    ∀ u ∈ [(addDone, Request.mk 2#3 1#32 0#32 0#32 0#32), (State.reset, Request.mk 5#3 1#32 2#32 0#32 0#32)], u.2.defined := by
  decide
theorem witness_AddLineBindsResult :
    inputsP2.lookup ['p'] = some 0x8C5F77AD#32 ∧ inputsP2.lookup ['q'] = some 0xCC375D5F#32 ∧ ['c'] ∉ boundNames inputsP2 := by
  decide
theorem witness_WellFormedSequenceCompletes : sequenceWellFormed (boundNames inputsP2) linesP2 = true := by decide
/-- R26: as soon as S8-10's request is presented, its response stands on the result ports. -/
theorem test_present_answers_at_once :
    (State.reset.present ⟨4#3, 0x8C5F77AD#32, 0xCC375D5F#32, 0#32, 0#32⟩) = addDone := by decide
theorem witness_ResultPortsFollowInputPorts :
    Settled addDone ∧ step addDone = .next addDone ∧ (Request.mk 4#3 0x8C5F77AD#32 0xCC375D5F#32 0#32 0#32).defined :=
  ⟨by unfold Settled; decide, rfl, by decide⟩
/-- A unit with no stage that shows an earlier response, not one just powered up. -/
theorem witness_LatencyZeroIsCombinational :
    (Pipe.mk [] ⟨1#32, 2#32, 3#32, 4#32⟩ 9).inFlight.length = Config.latency ∧
    (Request.mk 0#3 0#32 0#32 0#32 0#32).defined ∧ ¬ (Request.mk 7#3 0#32 0#32 0#32 0#32).defined := by decide

/-- A unit with one request and one empty stage in flight. -/
def busyPipe : Pipe := ⟨[some ⟨2#3, 1#32, 0#32, 0#32, 0#32⟩, none], ⟨0#32, 0#32, 0#32, 0#32⟩, 5⟩

/-- A request, then a cycle without one. -/
def twoCycles : List (Option Request) := [some ⟨2#3, 0x8C5F77AD#32, 0#32, 0#32, 0#32⟩, none]

theorem witness_PipelineAnswersInOrderAfterLatency :
    (pipePowerUp 1 = pipePowerUp 1 ∧ twoCycles[0]? = some (some ⟨2#3, 0x8C5F77AD#32, 0#32, 0#32, 0#32⟩) ∧
      0 + 1 < twoCycles.length) ∧
    (∃ old : Pipe, old.inFlight.length = 2 ∧ pipeReset busyPipe = pipeReset old) ∧ ∀ r, some r ∈ twoCycles → r.defined := by
  refine ⟨⟨rfl, rfl, by decide⟩, ⟨busyPipe, rfl, rfl⟩, fun r h => ?_⟩
  simp only [twoCycles, List.mem_cons, Option.some.injEq, List.not_mem_nil, or_false, reduceCtorEq] at h
  subst h
  decide
theorem witness_PipelineStaysLegal :
    PipeLegal 2 busyPipe ∧ ∃ p', pipeTick busyPipe (some ⟨0#3, 0#32, 0#32, 0#32, 0#32⟩) = .next p' := by
  refine ⟨⟨rfl, fun q hq => ?_⟩, _, rfl⟩
  simp only [busyPipe, List.mem_cons, Option.some.injEq, List.not_mem_nil, or_false, reduceCtorEq] at hq
  subst hq
  decide
/-- A legal unit, with a request presented and in a cycle without one. -/
theorem witness_PipelineCycleEmitsOldestRequest :
    PipeLegal 2 busyPipe ∧ (∀ r, some (Request.mk 0#3 0#32 0#32 0#32 0#32) = some r → r.defined) ∧
    (∃ p', pipeTick busyPipe none = .next p' ∧
      busyPipe.inFlight ++ [none] = some ⟨2#3, 1#32, 0#32, 0#32, 0#32⟩ :: p'.inFlight) :=
  ⟨witness_PipelineStaysLegal.1, fun r h => by cases h; decide, _, rfl, rfl⟩
theorem witness_ResetDiscardsRequestsInFlight :
    let q : Pipe := ⟨[none, some ⟨0#3, 9#32, 0#32, 0#32, 0#32⟩], ⟨1#32, 1#32, 1#32, 1#32⟩, 5⟩
    busyPipe.inFlight.length = q.inFlight.length ∧ busyPipe.cycle = q.cycle ∧ busyPipe ≠ q := by decide

end Sys2Proof.Tests
end

section
/-! PROOFS. Family 00_scope.md: the values a host integer has on a port and as a channel operand (R10, R17, R40). -/

namespace Sys2Proof.Machine

/-- R10, R17: the word of a host integer is its value modulo 2^32. -/
theorem hostWord_toNat (n : Int) : ((hostWord n).toNat : Int) = n % 2 ^ 32 := by
  rw [hostWord, BitVec.toNat_ofInt]
  omega

/-- R40: 256 divides 2^32, so the low byte of a host integer's word is its value modulo 256. -/
theorem lo8_hostWord_toNat (n : Int) : ((lo8 (hostWord n)).toNat : Int) = n % 256 := by
  have h := hostWord_toNat n
  rw [lo8_toNat]
  omega

/-- A channel operand does not tell a host integer from its value modulo 256. -/
theorem lo8_hostWord_emod (n : Int) : lo8 (hostWord (n % 256)) = lo8 (hostWord n) := by
  apply BitVec.eq_of_toNat_eq
  have h : ((lo8 (hostWord (n % 256))).toNat : Int) = (lo8 (hostWord n)).toNat := by
    rw [lo8_hostWord_toNat, lo8_hostWord_toNat, Int.emod_emod]
  exact_mod_cast h

/-- Settles O19: IMPLODE and SETALPHA read a channel operand through `lo8` alone, which sees its value modulo 256. -/
theorem hostIntegersTakenModulo : Obligations.HostIntegersTakenModulo := by
  unfold Obligations.HostIntegersTakenModulo
  refine ⟨hostWord_toNat, fun s a r g b => ?_, fun s c al => ?_⟩
  · simp only [exec_implode, implodeWord_eq_pack, lo8_hostWord_emod]
  · simp only [exec_setalpha, setAlphaWord_eq_pack, lo8_hostWord_emod]

end Sys2Proof.Machine
end

section
/-! PROOFS. Family 10_state.md: the result ports are a function of the request alone and follow the input ports at all times
(R13, R16, R26). Each statement comes from one fact about `exec`: on a defined request it drives the response that the rules
give by arithmetic on bytes. -/

namespace Sys2Proof.Machine

open Sys2Proof.Safety

-- ---- What an instruction keeps and what it reads ----

/-- R16: an instruction leaves the request on the input ports as it was. -/
theorem exec_keeps_request {i : Instr} {s t : State} (h : exec i s = .next t) : t.request = s.request := by
  obtain ⟨y, hy⟩ | ⟨_, hy⟩ := exec_cases i
  · rw [hy] at h
    cases h
    rfl
  · rw [hy] at h
    cases h

theorem step_keeps_request {s t : State} (h : step s = .next t) : t.request = s.request :=
  exec_keeps_request h

/-- R13: an instruction does not read the result ports. -/
theorem exec_eq_of_request {s s' : State} (h : s.request = s'.request) (i : Instr) : exec i s = exec i s' := by
  obtain ⟨y, hy⟩ | ⟨_, hy⟩ := exec_cases i
  · rw [hy, hy, drive_eq_of_request h]
  · rw [hy, hy]

theorem step_eq_of_request {s s' : State} (h : s.request = s'.request) : step s = step s' := by
  rw [step, step, h, exec_eq_of_request h]

/-- Settles O10: the request is kept as a whole, so each of its five ports is. -/
theorem inputPortsNeverWritten : Obligations.InputPortsNeverWritten := by
  unfold Obligations.InputPortsNeverWritten
  intro i s t h
  have hr := exec_keeps_request h
  exact ⟨congrArg Request.op hr, congrArg Request.x0 hr, congrArg Request.x1 hr, congrArg Request.x2 hr,
    congrArg Request.x3 hr⟩

/-- Settles O11: the step runs the decoded request, and no instruction reads the result ports. -/
theorem responseDependsOnRequestAlone : Obligations.ResponseDependsOnRequestAlone := by
  unfold Obligations.ResponseDependsOnRequestAlone
  exact fun _ _ h => step_eq_of_request h

-- ---- The response as arithmetic on bytes ----

theorem numbersOf_injective : Function.Injective numbersOf := by
  intro y z h
  cases y
  cases z
  simpa [numbersOf, BitVec.toNat_inj] using h

theorem numbersOf_colorResponse (c : Word) : numbersOf (colorResponse c) = [c.toNat, 0, 0, 0] := rfl

theorem numbersOf_channelResponse (a r g b : Channel) :
    numbersOf (channelResponse a r g b) = [a.toNat, r.toNat, g.toNat, b.toNat] := by
  simp only [numbersOf, channelResponse_y0, channelResponse_y1, channelResponse_y2, channelResponse_y3, channel_zext_toNat]

theorem implodeWord_toNat (a r g b : Word) :
    (implodeWord a r g b).toNat = ofBytes (a.toNat % 256) (r.toNat % 256) (g.toNat % 256) (b.toNat % 256) := by
  simp only [implodeWord_eq_pack, pack_eq_ofBytes, lo8_toNat]

theorem reverseWord_toNat (c : Word) :
    (reverseWord c).toNat = ofBytes (byteOf c 0) (byteOf c 1) (byteOf c 2) (byteOf c 3) := by
  simp only [reverseWord, pack_eq_ofBytes, chA_eq_byteOf, chR_eq_byteOf, chG_eq_byteOf, chB_eq_byteOf]

theorem setAlphaWord_toNat (c alpha : Word) :
    (setAlphaWord c alpha).toNat = ofBytes (alpha.toNat % 256) (byteOf c 2) (byteOf c 1) (byteOf c 0) := by
  simp only [setAlphaWord_eq_pack, pack_eq_ofBytes, lo8_toNat, chR_eq_byteOf, chG_eq_byteOf, chB_eq_byteOf]

theorem lanes_add8_toNat (p q : Word) : (lanes add8 p q).toNat = laneNumber (fun u v => min (u + v) 255) p q :=
  lanes_eq_laneNumber _ _ add8_toNat p q

theorem lanes_sub8_toNat (p q : Word) : (lanes sub8 p q).toNat = laneNumber (fun u v => u - v) p q :=
  lanes_eq_laneNumber _ _ sub8_toNat p q

theorem lanes_mul8_toNat (p q : Word) : (lanes mul8 p q).toNat = laneNumber (fun u v => u * v / 255) p q :=
  lanes_eq_laneNumber _ _ mul8_toNat p q

/-- R48, R49, R53, R56, R61, R62, R63: the instruction of a defined request drives, in every state, the response the rules
give by arithmetic on bytes. -/
theorem exec_decode_numericResponse {r : Request} (h : r.defined) :
    ∃ y, (∀ s, exec (decode r) s = .next (s.drive y)) ∧ numericResponse r = some (numbersOf y) := by
  obtain ⟨o, x0, x1, x2, x3⟩ := r
  obtain rfl | rfl | rfl | rfl | rfl | rfl | rfl | rfl := op_cases o
  · refine ⟨_, exec_explode x0, ?_⟩
    rw [numbersOf_channelResponse, chA_eq_byteOf, chR_eq_byteOf, chG_eq_byteOf, chB_eq_byteOf]
    rfl
  · refine ⟨_, exec_implode x0 x1 x2 x3, ?_⟩
    rw [numbersOf_colorResponse, implodeWord_toNat]
    rfl
  · refine ⟨_, exec_reverse x0, ?_⟩
    rw [numbersOf_colorResponse, reverseWord_toNat]
    rfl
  · refine ⟨_, exec_setalpha x0 x1, ?_⟩
    rw [numbersOf_colorResponse, setAlphaWord_toNat]
    rfl
  · refine ⟨_, exec_add x0 x1, ?_⟩
    rw [numbersOf_colorResponse, lanes_add8_toNat]
    rfl
  · refine ⟨_, exec_sub x0 x1, ?_⟩
    rw [numbersOf_colorResponse, lanes_sub8_toNat]
    rfl
  · refine ⟨_, exec_mul x0 x1, ?_⟩
    rw [numbersOf_colorResponse, lanes_mul8_toNat]
    rfl
  · exact absurd rfl h

-- ---- The result ports follow the input ports ----

/-- R26: whatever stood on the result ports, after a step they carry the response to the input ports. -/
theorem settled_of_step {s t : State} (h : step s = .next t) : Settled t := by
  intro hd
  rw [step_keeps_request h] at hd ⊢
  obtain ⟨y, hy, hn⟩ := exec_decode_numericResponse hd
  rw [step, hy] at h
  cases h
  exact hn

/-- A settled state shows the response a step drives, so the step changes nothing. -/
theorem step_of_settled {s : State} (hd : s.request.defined) (hs : Settled s) : step s = .next s := by
  obtain ⟨y, hy, hn⟩ := exec_decode_numericResponse hd
  have hresp : y = s.response := numbersOf_injective (Option.some.inj (hn.symm.trans (hs hd)))
  rw [step, hy, hresp, state_ext_ports (drive_request s _) (drive_response s _)]

/-- At reset the request is `EXPLODE 0`, whose response is the four zeros that stand there (log 2). -/
theorem step_reset : step State.reset = .next State.reset := rfl

theorem settled_present (s : State) (r : Request) : Settled (s.present r) := by
  intro hd
  obtain ⟨_, _, hstep⟩ := step_present_defined (present_request s r ▸ hd)
  exact settled_of_step (hstep s).2 hd

/-- Settles O14: `settled_of_step` from any state, and `step_of_settled` for the fixed points. -/
theorem everyStepSettles : Obligations.EveryStepSettles := by
  unfold Obligations.EveryStepSettles
  exact ⟨fun _ _ h => settled_of_step h, fun _ hd hs => step_of_settled hd hs⟩

/-- Settles O13: the reset state is the result of its own step. -/
theorem resetStateIsSettled : Obligations.ResetStateIsSettled := by
  unfold Obligations.ResetStateIsSettled
  exact ⟨settled_of_step step_reset, step_reset⟩

/-- Settles O56: reset and every presented state are results of a step, and each step settles; a presented request shows its
one response before the step that confirms it. -/
theorem resultPortsFollowInputPorts : Obligations.ResultPortsFollowInputPorts := by
  unfold Obligations.ResultPortsFollowInputPorts
  refine ⟨settled_of_step step_reset, settled_present, fun _ _ _ h => settled_of_step h, fun s r hd => ?_⟩
  obtain ⟨y, hresp, hstep⟩ := step_present_defined hd
  obtain ⟨hp, hs⟩ := hstep s
  refine ⟨?_, hs⟩
  rw [hresp, hp, drive_response]

-- ---- The step and the request presented ----

theorem step_present_eq_exec (s : State) (r : Request) : step (s.present r) = exec (decode r) (s.present r) := by
  rw [step, present_request]

/-- A table word that decodes is the `op` of the request it is presented as (log 8). -/
theorem decode_tableRequest {nbits w : Nat} {i : Instr} (h : decodeTableWord nbits w = some i) :
    decode (tableRequest w) = i := by
  unfold decodeTableWord at h
  split at h
  · exact Option.some.inj h
  · cases h

/-- Settles O8: the step decodes the request on the input ports, which is the one presented. -/
theorem stepRunsDecodedInstruction : Obligations.StepRunsDecodedInstruction := by
  unfold Obligations.StepRunsDecodedInstruction
  refine ⟨fun s i hi => ?_, fun s r => ⟨present_request s r, step_present_eq_exec s r⟩, fun s nbits w i hi => ?_⟩
  · rw [step, hi]
  · rw [State.withFetchWord, step_present_eq_exec, decode_tableRequest hi]

-- ---- Request sequences ----

/-- R13: a request presented over any two states gives the same step. -/
theorem step_present_eq (s s' : State) (r : Request) : step (s.present r) = step (s'.present r) :=
  step_eq_of_request (by rw [present_request, present_request])

/-- R93: a line presents its own request before the step, so it reads nothing of the ports it finds. -/
theorem runLine_eq (s s' : State) (env : Env) (l : Line) : runLine s env l = runLine s' env l := by
  simp only [runLine, step_present_eq s s']

/-- Settles O51: the first line already forgets the ports it finds; without a line the bindings are the host's inputs. -/
theorem sequenceIndependentOfEarlierPorts : Obligations.SequenceIndependentOfEarlierPorts := by
  unfold Obligations.SequenceIndependentOfEarlierPorts
  intro s s' env ls
  cases ls with
  | nil => rfl
  | cons l rest => rw [runSequence, runSequence, runLine_eq s s']

end Sys2Proof.Machine
end

section
/-! PROOFS. Family 20_memory.md: the same request again (R31), the bytes of a word (R28), the order of evaluation (R33) and
several instances (R35). A host that presents defined requests, on one instance or on many, reads for each request the
response `respond` gives it. -/

namespace Sys2Proof.Machine

/-- Settles O12: a step keeps the request, and the request alone fixes the outcome of a step. -/
theorem repeatedRequestSameResponse : Obligations.RepeatedRequestSameResponse := by
  unfold Obligations.RepeatedRequestSameResponse
  intro s t h
  exact (step_eq_of_request (step_keeps_request h)).trans h

/-- Settles O22: the four results of EXPLODE are the base-256 digits of the color, most significant first. -/
theorem byteOrderInsideTheWord : Obligations.ByteOrderInsideTheWord := by
  unfold Obligations.ByteOrderInsideTheWord
  intro s c
  refine ⟨_, exec_explode c s, ?_⟩
  simp only [drive_y0, drive_y1, drive_y2, drive_y3, channelResponse_y0, channelResponse_y1, channelResponse_y2,
    channelResponse_y3, channel_zext_toNat]
  refine ⟨?_, ?_, ?_, ?_⟩
  · exact (chB_toNat c).symm
  · rw [chG_toNat, chB_toNat]
    omega
  · rw [chA_toNat, chR_toNat]
    omega
  · rw [← pack_eq_ofBytes, pack_fields]

-- ---- Lists of requests and instances ----

/-- R13: in any state, the step on a defined request leaves the response `respond` gives it. -/
theorem step_present_respond {r : Request} (h : r.defined) (s : State) :
    ∃ t, step (s.present r) = .next t ∧ some t.response = respond r := by
  obtain ⟨y, hy, hs⟩ := step_present_defined h
  obtain ⟨hp, hstep⟩ := hs s
  refine ⟨_, hstep, ?_⟩
  rw [hy, hp, drive_response]

/-- R89: one instance answers a list of defined requests to its end, each with its own response. -/
theorem serve_defined {rs : List Request} (h : ∀ r ∈ rs, r.defined) (s : State) :
    ∃ t ys, serve s rs = .next (t, ys) ∧ ys.map some = rs.map respond := by
  induction rs generalizing s with
  | nil => exact ⟨s, [], rfl, rfl⟩
  | cons r rest ih =>
    rw [List.forall_mem_cons] at h
    obtain ⟨hr, hrest⟩ := h
    obtain ⟨t, hstep, hresp⟩ := step_present_respond hr s
    obtain ⟨u, ys, hserve, hys⟩ := ih hrest t
    refine ⟨u, t.response :: ys, ?_, ?_⟩
    · simp only [serve, hstep, hserve]
    · rw [List.map_cons, List.map_cons, hresp, hys]

/-- R35: instances with defined requests complete together, each with the response to its own request. -/
theorem serveInstances_defined {units : List (State × Request)} (h : ∀ u ∈ units, u.2.defined) :
    ∃ ts, serveInstances units = .next ts ∧ (ts.map State.response).map some = (units.map Prod.snd).map respond := by
  induction units with
  | nil => exact ⟨[], rfl, rfl⟩
  | cons unit rest ih =>
    rw [List.forall_mem_cons] at h
    obtain ⟨hunit, hrest⟩ := h
    obtain ⟨t, hstep, hresp⟩ := step_present_respond hunit unit.1
    obtain ⟨ts, hserve, hts⟩ := ih hrest
    refine ⟨t :: ts, ?_, ?_⟩
    · simp only [serveInstances, hstep, hserve]
    · simp only [List.map_cons, hresp, hts]

/-- Requests paired with their own responses are a map over the requests, in which no position counts. -/
theorem zip_responses {rs : List Request} {ys : List Response} (h : ys.map some = rs.map respond) :
    (rs.zip ys).map (Prod.map id some) = rs.map fun r => (r, respond r) := by
  rw [← List.zip_map_right, h, List.map_prod_left_eq_zip]

/-- Settles O47: both lists of pairs are the same map over the requests, so a permutation of the requests permutes them. -/
theorem evaluationOrderDoesNotMatter : Obligations.EvaluationOrderDoesNotMatter := by
  unfold Obligations.EvaluationOrderDoesNotMatter
  intro s s' rs rs' hperm hd
  obtain ⟨t, ys, hserve, hys⟩ := serve_defined hd s
  obtain ⟨t', ys', hserve', hys'⟩ := serve_defined (fun r hr => hd r (hperm.mem_iff.2 hr)) s'
  refine ⟨t, ys, t', ys', hserve, hserve', ?_⟩
  have hinj : Function.Injective (Prod.map id some : Request × Response → Request × Option Response) :=
    Function.injective_id.prodMap (Option.some_injective _)
  rw [← List.map_perm_map_iff hinj, zip_responses hys, zip_responses hys']
  exact hperm.map _

/-- Settles O48: the instances and the one instance both give each request the response `respond` gives it. -/
theorem instancesAnswerAsOneInstance : Obligations.InstancesAnswerAsOneInstance := by
  unfold Obligations.InstancesAnswerAsOneInstance
  intro units s hd
  obtain ⟨ts, hts, hresp⟩ := serveInstances_defined hd
  obtain ⟨t, ys, hserve, hys⟩ := serve_defined (List.forall_mem_map.2 hd) s
  exact ⟨ts, t, ys, hts, hserve, (Option.some_injective _).list_map (hresp.trans hys.symm)⟩

end Sys2Proof.Machine
end

section
/-! PROOFS. Family 30_encoding.md: the request string and the decoder (R37 to R44), the ports an operation reads and drives
(R39 to R43), and the lines of a request sequence (R45). The decoder is a left inverse of the encoder, so a request and the
one its instruction encodes to decode alike: that is why unused operand ports do not matter. -/

namespace Sys2Proof.Machine

-- ---- The strings as numbers (R37) ----

theorem append_toNat {m n : Nat} (x : BitVec m) (y : BitVec n) : (x ++ y).toNat = x.toNat * 2 ^ n + y.toNat := by
  rw [BitVec.toNat_append, ← Nat.shiftLeft_add_eq_or_of_lt y.isLt, Nat.shiftLeft_eq]

theorem request_toBits_toNat (r : Request) : r.toBits.toNat =
    (((r.op.toNat * 2 ^ 32 + r.x3.toNat) * 2 ^ 32 + r.x2.toNat) * 2 ^ 32 + r.x1.toNat) * 2 ^ 32 + r.x0.toNat := by
  simp only [Request.toBits, append_toNat]

theorem response_toBits_toNat (y : Response) : y.toBits.toNat =
    ((y.y3.toNat * 2 ^ 32 + y.y2.toNat) * 2 ^ 32 + y.y1.toNat) * 2 ^ 32 + y.y0.toNat := by
  simp only [Response.toBits, append_toNat]

theorem field_toNat (v : BitVec 131) (start len : Nat) :
    (v.extractLsb' start len).toNat = v.toNat / 2 ^ start % 2 ^ len := by
  rw [BitVec.extractLsb'_toNat, Nat.shiftRight_eq_div_pow]

/-- The three bits of `op` are all that stands above the four operands. -/
theorem ofBits_op_toNat (v : BitVec 131) : (Request.ofBits v).op.toNat = v.toNat / 2 ^ 128 := by
  have := v.isLt
  rw [Request.ofBits, field_toNat]
  omega

theorem toBits_ofBits (v : BitVec 131) : (Request.ofBits v).toBits = v := by
  apply BitVec.eq_of_toNat_eq
  have := v.isLt
  rw [request_toBits_toNat, ofBits_op_toNat]
  simp only [Request.ofBits, field_toNat]
  omega

/-- Equal strings are equal numbers, whose digits in base 2^32 are the ports. -/
theorem toBits_injective : Function.Injective Request.toBits := by
  intro r r' h
  have hn := congrArg BitVec.toNat h
  rw [request_toBits_toNat, request_toBits_toNat] at hn
  cases r
  cases r'
  simp only [Request.mk.injEq, ← BitVec.toNat_inj]
  dsimp only at hn
  omega

theorem ofBits_toBits (r : Request) : Request.ofBits r.toBits = r :=
  toBits_injective (toBits_ofBits r.toBits)

/-- Settles O3: the string is a number in base 2^32, and its digits are the ports. -/
theorem requestStringLayout : Obligations.RequestStringLayout := by
  unfold Obligations.RequestStringLayout
  exact ⟨fun r => ⟨ofBits_toBits r, request_toBits_toNat r⟩, toBits_ofBits, response_toBits_toNat⟩

-- ---- The decoder and the encoder (R37 to R39) ----

theorem decode_encodeRequest (i : Instr) : decode (encodeRequest i) = i := by
  cases i <;> rfl

theorem decodeBits_encode (i : Instr) : decodeBits (encode i) = i := by
  rw [decodeBits, encode, ofBits_toBits, decode_encodeRequest]

/-- On a number that fits 131 bits, the rejecting decoder asks only whether the instruction is well formed. -/
theorem decodeString_toNat (v : BitVec 131) : decodeString v.toNat =
    if (decodeBits v).wellFormed = true then .ok (decodeBits v) else .error .reservedOp := by
  simp only [decodeString, v.isLt, if_true, BitVec.ofNat_toNat, BitVec.setWidth_eq]

theorem decodeString_of_eq_encode {v : Nat} {i : Instr} (hi : i.wellFormed = true) (hv : v = (encode i).toNat) :
    decodeString v = .ok i := by
  rw [hv, decodeString_toNat, decodeBits_encode, if_pos hi]

/-- Settles O5: the string gives the request back, and the request the instruction. -/
theorem decodeEncodeAgree : Obligations.DecodeEncodeAgree := by
  unfold Obligations.DecodeEncodeAgree
  exact fun i => ⟨decodeBits_encode i, fun hi => decodeString_of_eq_encode hi rfl⟩

/-- R42: a string is well formed exactly when its top three bits are not `111`. -/
theorem decodeBits_wellFormed_iff (v : BitVec 131) : (decodeBits v).wellFormed = true ↔ v.toNat / 2 ^ 128 ≠ 7 := by
  rw [decodeBits, decode_wellFormed_iff, ne_eq, ← BitVec.toNat_inj, ofBits_op_toNat]
  rfl

/-- Settles O4: a number below 2^131 is a string, which is well formed unless its top three bits are `111`. -/
theorem stringDefinedUnlessTopBitsSet : Obligations.StringDefinedUnlessTopBitsSet := by
  unfold Obligations.StringDefinedUnlessTopBitsSet
  intro v
  refine ⟨fun hv htop => ?_, fun hv htop => ?_, fun hv => if_neg hv.not_gt⟩
  · obtain ⟨b, rfl⟩ : ∃ b : BitVec 131, b.toNat = v := ⟨.ofNatLT v hv, rfl⟩
    have hwf := (decodeBits_wellFormed_iff b).2 htop
    exact ⟨decodeBits b, hwf, by rw [decodeString_toNat, if_pos hwf]⟩
  · obtain ⟨b, rfl⟩ : ∃ b : BitVec 131, b.toNat = v := ⟨.ofNatLT v hv, rfl⟩
    rw [decodeString_toNat, if_neg fun hwf => (decodeBits_wellFormed_iff b).1 hwf htop]

/-- Settles O7: each string printed in the spec is the encoding of its line. -/
theorem specRequestStringsDecode : Obligations.SpecRequestStringsDecode := by
  unfold Obligations.SpecRequestStringsDecode
  exact ⟨decodeString_of_eq_encode rfl rfl, decodeString_of_eq_encode rfl rfl, decodeString_of_eq_encode rfl rfl,
    decodeString_of_eq_encode rfl rfl, decodeString_of_eq_encode rfl rfl, decodeString_of_eq_encode rfl rfl,
    decodeString_of_eq_encode rfl rfl⟩

-- ---- The operation code (R38, R42, R44) ----

/-- Settles O1: one line of the tables R38 and R39 per value of `op`. -/
theorem opCodesSelectOperations : Obligations.OpCodesSelectOperations := by
  unfold Obligations.OpCodesSelectOperations
  exact fun _ _ _ _ => ⟨rfl, rfl, rfl, rfl, rfl, rfl, rfl, rfl⟩

theorem decode_opcode (r : Request) : (decode r).opcode = r.op := by
  obtain ⟨o, x0, x1, x2, x3⟩ := r
  obtain rfl | rfl | rfl | rfl | rfl | rfl | rfl | rfl := op_cases o <;> rfl

/-- Settles O2: the code of the decoded instruction is the `op` it was decoded from. -/
theorem decoderReadsOpAlone : Obligations.DecoderReadsOpAlone := by
  unfold Obligations.DecoderReadsOpAlone
  exact decode_opcode

theorem opcode_eq_seven_iff (i : Instr) : i.opcode = 7#3 ↔ i = .reserved := by
  cases i <;> simp [Instr.opcode]

/-- Settles O35: only the reserved instruction has the code 7. -/
theorem reservedCodeRefused : Obligations.ReservedCodeRefused := by
  unfold Obligations.ReservedCodeRefused
  refine ⟨exec_reserved, fun r => ?_, decode_wellFormed_iff⟩
  rw [← opcode_eq_seven_iff, decode_opcode]

-- ---- The operand ports an operation reads (R39, R40, R43) ----

theorem request_ext {r r' : Request} (hop : r.op = r'.op) (hx : ∀ k, r.x k = r'.x k) : r = r' := by
  have h0 : r.x0 = r'.x0 := hx 0
  have h1 : r.x1 = r'.x1 := hx 1
  have h2 : r.x2 = r'.x2 := hx 2
  have h3 : r.x3 = r'.x3 := hx 3
  cases r
  cases r'
  rw [Request.mk.injEq]
  exact ⟨hop, h0, h1, h2, h3⟩

theorem encodeRequest_op (i : Instr) : (encodeRequest i).op = i.opcode := by
  cases i <;> rfl

/-- R39: the encoder shows a used operand port as the decoder read it, and an unused one as zero (log 7). -/
theorem encodeRequest_decode_x (r : Request) (k : Fin 4) :
    (encodeRequest (decode r)).x k = if usesPort r.op k = true then r.x k else 0#32 := by
  obtain ⟨o, x0, x1, x2, x3⟩ := r
  obtain rfl | rfl | rfl | rfl | rfl | rfl | rfl | rfl := op_cases o <;> fin_cases k <;> rfl

/-- Settles O6: the code of the decoded instruction is `op`, and its operands are the used ports. -/
theorem encodeDecodeKeepsUsedPorts : Obligations.EncodeDecodeKeepsUsedPorts := by
  unfold Obligations.EncodeDecodeKeepsUsedPorts
  exact fun r => ⟨by rw [encodeRequest_op, decode_opcode], encodeRequest_decode_x r⟩

/-- R43: requests that agree on `op` and the used ports encode alike, so they are decoded alike. -/
theorem decode_eq_of_usedPorts {r r' : Request} (hop : r.op = r'.op)
    (hx : ∀ k, usesPort r.op k = true → r.x k = r'.x k) : decode r = decode r' := by
  have henc : encodeRequest (decode r) = encodeRequest (decode r') := by
    apply request_ext
    · rw [encodeRequest_op, encodeRequest_op, decode_opcode, decode_opcode, hop]
    · intro k
      rw [encodeRequest_decode_x, encodeRequest_decode_x, ← hop]
      exact ite_congr rfl (hx k) fun _ => rfl
  rw [← decode_encodeRequest (decode r), henc, decode_encodeRequest]

/-- Instructions with the same meaning give their requests the same response. -/
theorem respond_eq_of_exec {r r' : Request} (h : ∀ s, exec (decode r) s = exec (decode r') s) :
    respond r = respond r' := by
  obtain ⟨y, hy⟩ | ⟨_, hy⟩ := exec_cases (decode r')
  · rw [respond, respond, step_present_eq_exec, step_present_eq_exec, h, hy, hy]
    rfl
  · rw [respond, respond, step_present_eq_exec, step_present_eq_exec, h, hy, hy]

/-- Settles O17: the decoder drops the unused operand ports. -/
theorem unusedOperandPortsIgnored : Obligations.UnusedOperandPortsIgnored := by
  unfold Obligations.UnusedOperandPortsIgnored
  intro r r' hop hx
  exact respond_eq_of_exec fun s => by rw [decode_eq_of_usedPorts hop hx]

theorem lo8_eq_of_mod {x y : Word} (h : x.toNat % 256 = y.toNat % 256) : lo8 x = lo8 y := by
  apply BitVec.eq_of_toNat_eq
  rw [lo8_toNat, lo8_toNat, h]

/-- R39: only IMPLODE and SETALPHA have channel operands. -/
theorem channelOperand_op {o : OpCode} (h : ∃ k, isChannelOperand o k = true) : o = 1#3 ∨ o = 3#3 := by
  revert o
  decide

/-- Settles O18: IMPLODE and SETALPHA read their channel operands through `lo8`; the other operations have none. -/
theorem channelOperandHighBitsIgnored : Obligations.ChannelOperandHighBitsIgnored := by
  unfold Obligations.ChannelOperandHighBitsIgnored
  intro r r' hop hx
  by_cases hchannels : ∃ k, isChannelOperand r.op k = true
  · obtain ⟨o, x0, x1, x2, x3⟩ := r
    obtain ⟨_, y0, y1, y2, y3⟩ := r'
    obtain rfl := hop
    obtain rfl | rfl := channelOperand_op hchannels
    · have h0 : lo8 x0 = lo8 y0 := lo8_eq_of_mod (hx 0)
      have h1 : lo8 x1 = lo8 y1 := lo8_eq_of_mod (hx 1)
      have h2 : lo8 x2 = lo8 y2 := lo8_eq_of_mod (hx 2)
      have h3 : lo8 x3 = lo8 y3 := lo8_eq_of_mod (hx 3)
      refine respond_eq_of_exec fun s => ?_
      show exec (.implode x0 x1 x2 x3) s = exec (.implode y0 y1 y2 y3) s
      simp only [exec_implode, implodeWord_eq_pack, h0, h1, h2, h3]
    · have h0 : x0 = y0 := hx 0
      have h1 : lo8 x1 = lo8 y1 := lo8_eq_of_mod (hx 1)
      refine respond_eq_of_exec fun s => ?_
      show exec (.setalpha x0 x1) s = exec (.setalpha y0 y1) s
      simp only [exec_setalpha, setAlphaWord_eq_pack, h0, h1]
  · rw [not_exists] at hchannels
    rw [request_ext hop fun k => (if_neg (hchannels k)).mp (hx k)]

-- ---- The result ports an operation drives (R41) ----

/-- What a completed instruction has driven: four channels if it is EXPLODE, one word and zeros otherwise. -/
theorem exec_next_driven {i : Instr} {s t : State} (h : exec i s = .next t) :
    (i.opcode = 0#3 ∧ ∃ a r g b, t = s.drive (channelResponse a r g b)) ∨
    (i.opcode ≠ 0#3 ∧ ∃ c, t = s.drive (colorResponse c)) := by
  cases i with
  | explode c =>
    cases h
    exact .inl ⟨rfl, _, _, _, _, rfl⟩
  | reserved => cases h
  | _ =>
    cases h
    exact .inr ⟨by simp [Instr.opcode], _, rfl⟩

/-- Settles O16: a channel is below 256, and one word leaves the other three result ports at zero. -/
theorem unusedResultPortsAreZero : Obligations.UnusedResultPortsAreZero := by
  unfold Obligations.UnusedResultPortsAreZero
  intro s t h
  obtain ⟨hop, a, r, g, b, rfl⟩ | ⟨hop, c, rfl⟩ := exec_next_driven h
  · rw [decode_opcode, request_op] at hop
    refine ⟨fun _ => ?_, fun hne => absurd hop hne⟩
    simp only [drive_y0, drive_y1, drive_y2, drive_y3, channelResponse_y0, channelResponse_y1, channelResponse_y2,
      channelResponse_y3, channel_zext_toNat]
    exact ⟨a.isLt, r.isLt, g.isLt, b.isLt⟩
  · rw [decode_opcode, request_op] at hop
    exact ⟨fun heq => absurd heq hop, fun _ => ⟨rfl, rfl, rfl⟩⟩

-- ---- The lines of a request sequence (R45, R93) ----

theorem lineRequest_defined (o : Operation) (vs : List Word) : (lineRequest o vs).defined := by
  cases o <;> simp [lineRequest, operationCode]

theorem usedResults_length (o : Operation) (y : Response) : (usedResults o y).length = resultCount o := by
  cases o <;> rfl

/-- A line that passes the checks completes, and binds its results to the used result ports. -/
theorem runLine_next {env : Env} {l : Line} {vs : List Word} (hops : l.operands.length = operandCount l.operation)
    (hres : l.results.length = resultCount l.operation) (hnew : firstRebound (boundNames env) l.results = none)
    (hvs : operandValues env l.operands = .ok vs) (s : State) :
    ∃ t, step (s.present (lineRequest l.operation vs)) = .next t ∧
      runLine s env l = .ok (t, env ++ l.results.zip (usedResults l.operation t.response)) := by
  obtain ⟨_, _, hstep⟩ := step_present_defined (lineRequest_defined l.operation vs)
  refine ⟨_, (hstep s).2, ?_⟩
  simp only [runLine, hops, hres, if_true, hnew, hvs, (hstep s).2]

/-- Settles O49: the values of `p` and `q` are the operands of the line, and `c` is its one result. -/
theorem addLineBindsResult : Obligations.AddLineBindsResult := by
  unfold Obligations.AddLineBindsResult
  intro s env c p q v w hp hq hc
  have hnew : firstRebound (boundNames env) [c] = none := by simp [firstRebound, hc]
  have hvs : operandValues env [.name p, .name q] = .ok [v, w] := by simp only [operandValues, operandValue, hp, hq]
  exact runLine_next (l := ⟨[c], .add, [.name p, .name q]⟩) rfl rfl hnew hvs s

theorem lookup_of_bound {env : Env} {x : Name} (h : x ∈ boundNames env) : ∃ v, env.lookup x = some v := by
  obtain ⟨p, hp, rfl⟩ := List.mem_map.1 h
  exact Option.isSome_iff_exists.1 (List.lookup_isSome_iff.2 ⟨p, hp, beq_self_eq_true _⟩)

theorem operandValue_of_bound {env : Env} {o : Operand} (h : operandBound (boundNames env) o = true) :
    ∃ v, operandValue env o = .ok v := by
  cases o with
  | lit n => exact ⟨_, rfl⟩
  | name x =>
    obtain ⟨v, hv⟩ := lookup_of_bound (List.contains_iff_mem.1 h)
    exact ⟨v, by simp only [operandValue, hv]⟩

theorem operandValues_of_bound {env : Env} {os : List Operand} (h : os.all (operandBound (boundNames env)) = true) :
    ∃ vs, operandValues env os = .ok vs := by
  induction os with
  | nil => exact ⟨[], rfl⟩
  | cons o rest ih =>
    rw [List.all_cons, Bool.and_eq_true] at h
    obtain ⟨ho, hrest⟩ := h
    obtain ⟨v, hv⟩ := operandValue_of_bound ho
    obtain ⟨vs, hvs⟩ := ih hrest
    exact ⟨v :: vs, by simp only [operandValues, hv, hvs]⟩

/-- A well-formed line completes; it adds bindings after those it finds, and their names are its results. -/
theorem runLine_wellFormed {env : Env} {l : Line} (h : lineWellFormed (boundNames env) l = true) (s : State) :
    ∃ t new, runLine s env l = .ok (t, env ++ new) ∧ boundNames new = l.results := by
  simp only [lineWellFormed, Bool.and_eq_true, beq_iff_eq, Option.isNone_iff_eq_none] at h
  obtain ⟨⟨⟨hops, hres⟩, hbound⟩, hnew⟩ := h
  obtain ⟨vs, hvs⟩ := operandValues_of_bound hbound
  obtain ⟨t, _, hrun⟩ := runLine_next hops hres hnew hvs s
  refine ⟨t, _, hrun, List.map_fst_zip ?_⟩
  rw [hres, usedResults_length]

/-- Settles O50: by induction over the lines, each of which leaves its results bound for the next. -/
theorem wellFormedSequenceCompletes : Obligations.WellFormedSequenceCompletes := by
  unfold Obligations.WellFormedSequenceCompletes
  intro s env ls h
  induction ls generalizing s env with
  | nil => exact ⟨s, env, rfl, List.prefix_rfl, (List.append_nil _).symm⟩
  | cons l rest ih =>
    rw [sequenceWellFormed, Bool.and_eq_true] at h
    obtain ⟨hline, hrest⟩ := h
    obtain ⟨t, new, hrun, hnew⟩ := runLine_wellFormed hline s
    have hnames : boundNames (env ++ new) = boundNames env ++ l.results := by
      rw [← hnew]
      exact List.map_append
    rw [← hnames] at hrest
    obtain ⟨u, env', hseq, hpre, hbound⟩ := ih t (env ++ new) hrest
    refine ⟨u, env', ?_, (List.prefix_append env new).trans hpre, ?_⟩
    · simp only [runSequence, hrun, hseq]
    · rw [hbound, hnames, List.flatMap_cons, List.append_assoc]

end Sys2Proof.Machine
end

section
/-! PROOFS. Family 40_explode_implode.md: the unit against arithmetic on bytes, EXPLODE and IMPLODE (R48 to R52). A channel of
a word is the low byte `lo8` of the word shifted right, so every mask of the two rules is one fact about `lo8`. -/

namespace Sys2Proof.Machine

open Sys2Proof.Safety

-- ---- The response of any request ----

/-- R13: the unit's response is the one its decoded instruction drives. -/
theorem respond_of_exec {r : Request} {y : Response} (h : ∀ s, exec (decode r) s = .next (s.drive y)) :
    respond r = some y := by
  rw [respond, step_present_eq_exec, h]
  rfl

/-- R42: the unit has no response to the reserved code. -/
theorem respond_reserved {r : Request} (h : r.op = 7#3) : respond r = none := by
  rw [respond, step_present_reserved h]
  rfl

/-- Settles O15: a defined request drives its numeric response, and the reserved code has none on either side. -/
theorem unitMatchesByteArithmetic : Obligations.UnitMatchesByteArithmetic := by
  unfold Obligations.UnitMatchesByteArithmetic
  intro r
  by_cases hd : r.defined
  · obtain ⟨y, hy, hn⟩ := exec_decode_numericResponse hd
    rw [respond_of_exec hy, hn, Option.map_some]
  · have hop : r.op = 7#3 := not_not.1 hd
    rw [respond_reserved hop, numericResponse, hop]
    rfl

-- ---- Channels as shifts and masks (R48) ----

theorem chA_eq_lo8 (c : Word) : chA c = lo8 (c >>> 24) := by
  apply BitVec.eq_of_toNat_eq
  have := c.isLt
  rw [chA_toNat, lo8_toNat, BitVec.toNat_ushiftRight, Nat.shiftRight_eq_div_pow]
  omega

theorem chR_eq_lo8 (c : Word) : chR c = lo8 (c >>> 16) := by
  apply BitVec.eq_of_toNat_eq
  rw [chR_toNat, lo8_toNat, BitVec.toNat_ushiftRight, Nat.shiftRight_eq_div_pow]

theorem chG_eq_lo8 (c : Word) : chG c = lo8 (c >>> 8) := by
  apply BitVec.eq_of_toNat_eq
  rw [chG_toNat, lo8_toNat, BitVec.toNat_ushiftRight, Nat.shiftRight_eq_div_pow]

theorem chB_eq_lo8 (c : Word) : chB c = lo8 c := by
  apply BitVec.eq_of_toNat_eq
  rw [chB_toNat, lo8_toNat]

/-- R41: a masked word is its low byte zero-extended. -/
theorem lo8_zext (x : Word) : (lo8 x).setWidth 32 = x &&& 0xFF#32 := by
  apply BitVec.eq_of_toNat_eq
  rw [channel_zext_toNat, lo8_toNat, BitVec.toNat_and]
  exact (Nat.and_two_pow_sub_one_eq_mod x.toNat 8).symm

/-- A channel on a result port, read back as a channel operand, is itself. -/
theorem lo8_channel_zext (u : Channel) : lo8 (u.setWidth 32) = u := by
  apply BitVec.eq_of_toNat_eq
  rw [lo8_toNat, channel_zext_toNat]
  exact Nat.mod_eq_of_lt u.isLt

/-- R48: the response of EXPLODE by the rule's shifts and masks. -/
theorem channelResponse_fields (c : Word) : channelResponse (chA c) (chR c) (chG c) (chB c) =
    ⟨(c >>> 24) &&& 0xFF#32, (c >>> 16) &&& 0xFF#32, (c >>> 8) &&& 0xFF#32, c &&& 0xFF#32⟩ := by
  rw [chA_eq_lo8, chR_eq_lo8, chG_eq_lo8, chB_eq_lo8]
  simp only [channelResponse, lo8_zext]

theorem numbersOf_fields (c : Word) : numbersOf (channelResponse (chA c) (chR c) (chG c) (chB c)) =
    [byteOf c 3, byteOf c 2, byteOf c 1, byteOf c 0] := by
  rw [numbersOf_channelResponse, chA_eq_byteOf, chR_eq_byteOf, chG_eq_byteOf, chB_eq_byteOf]

/-- Settles O20: `channelResponse_fields` gives the ports, `numbersOf_fields` their values. -/
theorem explodeGivesFourChannels : Obligations.ExplodeGivesFourChannels := by
  unfold Obligations.ExplodeGivesFourChannels
  intro s c x1 x2 x3
  have hy := channelResponse_fields c
  exact ⟨rfl, _, exec_explode c s, drive_request s _, congrArg Response.y0 hy, congrArg Response.y1 hy,
    congrArg Response.y2 hy, congrArg Response.y3 hy, numbersOf_fields c⟩

theorem lo8_eq_setWidth (x : Word) : lo8 x = x.setWidth 8 := by
  apply BitVec.eq_of_toNat_eq
  rw [lo8_toNat, BitVec.toNat_setWidth]

/-- C3 of 90_conflicts.md: the two kinds of shift differ in the top `n` bits alone, and up to `n = 24` the low byte is none of
them. -/
theorem lo8_sshiftRight (c : Word) {n : Nat} (hn : n ≤ 24) : lo8 (c.sshiftRight n) = lo8 (c >>> n) := by
  rw [lo8_eq_setWidth, lo8_eq_setWidth]
  apply BitVec.eq_of_getLsbD_eq
  intro i hi
  have hbit : n + i < 32 := by omega
  have hword : ¬ 32 ≤ i := by omega
  simp only [BitVec.getLsbD_setWidth, BitVec.getLsbD_sshiftRight, BitVec.getLsbD_ushiftRight, hbit, hword, if_true, decide_false,
    Bool.not_false, Bool.true_and]

theorem sshiftRight_and_mask (c : Word) {n : Nat} (hn : n ≤ 24) : c.sshiftRight n &&& 0xFF#32 = (c >>> n) &&& 0xFF#32 := by
  rw [← lo8_zext, lo8_sshiftRight c hn, lo8_zext]

/-- Settles O21: each shift of the rule is by at most 24. -/
theorem explodeSameUnderArithmeticShift : Obligations.ExplodeSameUnderArithmeticShift := by
  unfold Obligations.ExplodeSameUnderArithmeticShift
  intro s c
  refine ⟨_, exec_explode c s, ?_⟩
  rw [channelResponse_fields, sshiftRight_and_mask c (Nat.le_refl 24), sshiftRight_and_mask c (by decide : 16 ≤ 24),
    sshiftRight_and_mask c (by decide : 8 ≤ 24)]
  exact ⟨rfl, rfl, rfl, rfl⟩

-- ---- IMPLODE and the round trips (R49, R50, R52) ----

/-- Settles O23: the masks and shifts are the model's own; `implodeWord_toNat` gives their value. -/
theorem implodePacksFourChannels : Obligations.ImplodePacksFourChannels := by
  unfold Obligations.ImplodePacksFourChannels
  intro s a r g b
  refine ⟨rfl, _, exec_implode a r g b s, drive_request s _, rfl, ?_⟩
  rw [drive_response, numbersOf_colorResponse, implodeWord_toNat]

/-- Settles O24: IMPLODE packs the very channels EXPLODE took from the word. -/
theorem implodeOfExplodeIsIdentity : Obligations.ImplodeOfExplodeIsIdentity := by
  unfold Obligations.ImplodeOfExplodeIsIdentity
  intro s c
  refine ⟨_, _, exec_explode c s, exec_implode _ _ _ _ _, ?_⟩
  simp only [drive_y0, drive_y1, drive_y2, drive_y3, colorResponse_y0, channelResponse_y0, channelResponse_y1,
    channelResponse_y2, channelResponse_y3, implodeWord_eq_pack, lo8_channel_zext, pack_fields]

/-- R52: EXPLODE of what IMPLODE packed gives the low byte of each operand. -/
theorem exec_explode_implodeWord (a r g b : Word) (s : State) :
    exec (.explode (implodeWord a r g b)) s = .next (s.drive (channelResponse (lo8 a) (lo8 r) (lo8 g) (lo8 b))) := by
  rw [exec_explode, implodeWord_eq_pack, chA_pack, chR_pack, chG_pack, chB_pack]

/-- Low bytes as a response: the words themselves exactly when each is in 0..255. -/
theorem channelResponse_lo8_eq_iff (a r g b : Word) :
    channelResponse (lo8 a) (lo8 r) (lo8 g) (lo8 b) = ⟨a, r, g, b⟩ ↔
      a.toNat < 256 ∧ r.toNat < 256 ∧ g.toNat < 256 ∧ b.toNat < 256 := by
  rw [← numbersOf_injective.eq_iff, numbersOf_channelResponse]
  simp only [numbersOf, lo8_toNat, List.cons.injEq, and_true, Nat.mod_eq_iff_lt (by decide : 256 ≠ 0)]

/-- Settles O25: both claims are about the low bytes of the operands. -/
theorem explodeOfImplodeTruncates : Obligations.ExplodeOfImplodeTruncates := by
  unfold Obligations.ExplodeOfImplodeTruncates
  intro s a r g b
  refine ⟨_, _, exec_implode a r g b s, exec_explode_implodeWord a r g b _, ?_, channelResponse_lo8_eq_iff a r g b⟩
  rw [drive_response, numbersOf_channelResponse, lo8_toNat, lo8_toNat, lo8_toNat, lo8_toNat]

end Sys2Proof.Machine
end

section
/-! PROOFS. Family 41_reverse_setalpha.md: REVERSE and SETALPHA (R53 to R57). REVERSE packs the four channels backwards and
SETALPHA packs them with a new alpha, so each claim about words is one about the fields of a packed word. -/

namespace Sys2Proof.Machine

-- ---- REVERSE (R53 to R55) ----

/-- Byte 1 of a word moved to byte 0, masked there and moved back. -/
theorem byte_one_masked_in_place (x : Word) : ((x >>> 8) &&& 0xFF#32) <<< 8 = x &&& 0x0000FF00#32 := by
  apply BitVec.eq_of_getLsbD_eq
  intro i hi
  simp only [BitVec.getLsbD_shiftLeft, BitVec.getLsbD_and, BitVec.getLsbD_ushiftRight]
  interval_cases i <;> simp

/-- R55: REVERSE is IMPLODE of the bytes of the word, the least significant first. -/
theorem reverseWord_eq_implodeWord (c : Word) : reverseWord c = implodeWord c (c >>> 8) (c >>> 16) (c >>> 24) := by
  rw [implodeWord_eq_pack, reverseWord, chA_eq_lo8, chR_eq_lo8, chG_eq_lo8, chB_eq_lo8]

/-- R53: the outer bytes move by 24 bits, and the inner bytes by 8 bits under a mask for byte 1. -/
theorem reverseWord_eq_masks (c : Word) : reverseWord c =
    (((c &&& 0x000000FF#32) <<< 24) ||| ((c &&& 0x0000FF00#32) <<< 8)
      ||| ((c >>> 8) &&& 0x0000FF00#32) ||| ((c >>> 24) &&& 0x000000FF#32)) := by
  have hgreen : ((c >>> 8) &&& 0xFF#32) <<< 16 = (c &&& 0x0000FF00#32) <<< 8 := by
    rw [← byte_one_masked_in_place c, ← BitVec.shiftLeft_add]
  have hred : ((c >>> 16) &&& 0xFF#32) <<< 8 = (c >>> 8) &&& 0x0000FF00#32 := by
    rw [← byte_one_masked_in_place (c >>> 8), ← BitVec.shiftRight_add]
  rw [reverseWord_eq_implodeWord, ← hgreen, ← hred]
  rfl

/-- Settles O26: `reverseWord_eq_masks` gives the word and `reverseWord_toNat` its value. -/
theorem reverseSwapsBytes : Obligations.ReverseSwapsBytes := by
  unfold Obligations.ReverseSwapsBytes
  intro s c x1 x2 x3
  refine ⟨rfl, _, exec_reverse c s, drive_request s _, reverseWord_eq_masks c, ?_⟩
  rw [drive_response, numbersOf_colorResponse, reverseWord_toNat]

theorem chA_reverseWord (c : Word) : chA (reverseWord c) = chB c := chA_pack ..
theorem chR_reverseWord (c : Word) : chR (reverseWord c) = chG c := chR_pack ..
theorem chG_reverseWord (c : Word) : chG (reverseWord c) = chR c := chG_pack ..
theorem chB_reverseWord (c : Word) : chB (reverseWord c) = chA c := chB_pack ..

/-- R54: reversed twice, each channel is back in its field. -/
theorem reverseWord_involutive : Function.Involutive reverseWord := by
  intro c
  rw [reverseWord, chA_reverseWord, chR_reverseWord, chG_reverseWord, chB_reverseWord, pack_fields]

/-- Settles O27: an involution is a bijection, and the one word that gives `d` is the REVERSE of `d`. -/
theorem reverseIsAnInvolution : Obligations.ReverseIsAnInvolution := by
  unfold Obligations.ReverseIsAnInvolution
  refine ⟨fun s c => ?_, fun s d => ?_⟩
  · exact ⟨_, _, exec_reverse c s, exec_reverse _ _, reverseWord_involutive c⟩
  · refine ⟨_, _, exec_reverse (reverseWord d) s, reverseWord_involutive d, fun c' t' h hd => ?_⟩
    cases h
    exact reverseWord_involutive.eq_iff.1 hd

/-- R59: ADD, SUB and MUL use one function on the four lanes. -/
theorem exec_eq_lanes {F : Word → Word → Instr} (h : F = Instr.add ∨ F = Instr.sub ∨ F = Instr.mul) :
    ∃ f, ∀ p q s, exec (F p q) s = .next (s.drive (colorResponse (lanes f p q))) := by
  obtain rfl | rfl | rfl := h
  · exact ⟨add8, exec_add⟩
  · exact ⟨sub8, exec_sub⟩
  · exact ⟨mul8, exec_mul⟩

/-- R55: the lane function is the same in every lane, so the order of the lanes does not matter. -/
theorem reverseWord_lanes (f : Channel → Channel → Channel) (p q : Word) :
    reverseWord (lanes f p q) = lanes f (reverseWord p) (reverseWord q) := by
  rw [reverseWord, chA_lanes, chR_lanes, chG_lanes, chB_lanes]
  simp only [lanes, chA_reverseWord, chR_reverseWord, chG_reverseWord, chB_reverseWord]

/-- Settles O28: IMPLODE packs the channels it is given, here backwards, and the lanes do not depend on their order. -/
theorem reverseCommutesWithLanes : Obligations.ReverseCommutesWithLanes := by
  unfold Obligations.ReverseCommutesWithLanes
  refine ⟨fun s c => ?_, fun F hF s p q => ?_⟩
  · refine ⟨_, _, _, exec_explode c s, exec_implode _ _ _ _ _, exec_reverse c s, ?_⟩
    simp only [drive_y0, drive_y1, drive_y2, drive_y3, colorResponse_y0, channelResponse_y0, channelResponse_y1,
      channelResponse_y2, channelResponse_y3, implodeWord_eq_pack, lo8_channel_zext, reverseWord]
  · obtain ⟨f, hf⟩ := exec_eq_lanes hF
    exact ⟨_, _, _, _, _, hf p q s, exec_reverse _ s, exec_reverse p s, exec_reverse q s, hf _ _ s, reverseWord_lanes f p q⟩

-- ---- SETALPHA (R56, R57) ----

/-- Settles O29: the mask and shift are the model's own; `setAlphaWord_toNat` gives their value. -/
theorem setAlphaReplacesAlphaByte : Obligations.SetAlphaReplacesAlphaByte := by
  unfold Obligations.SetAlphaReplacesAlphaByte
  intro s c al x2 x3
  refine ⟨rfl, _, exec_setalpha c al s, drive_request s _, rfl, ?_⟩
  rw [drive_response, numbersOf_colorResponse, setAlphaWord_toNat]

/-- R56 (3): the alpha a word has, put back. -/
theorem setAlphaWord_own_alpha (c : Word) : setAlphaWord c ((chA c).setWidth 32) = c := by
  rw [setAlphaWord_eq_pack, lo8_channel_zext, pack_fields]

/-- R56 (4): the second alpha replaces the first. -/
theorem setAlphaWord_setAlphaWord (c p q : Word) : setAlphaWord (setAlphaWord c p) q = setAlphaWord c q := by
  simp only [setAlphaWord_eq_pack, chR_pack, chG_pack, chB_pack]

/-- Settles O30: `setAlphaWord_own_alpha` and `setAlphaWord_setAlphaWord`, for the words the result ports carry. -/
theorem setAlphaTwiceKeepsLast : Obligations.SetAlphaTwiceKeepsLast := by
  unfold Obligations.SetAlphaTwiceKeepsLast
  refine ⟨fun s c => ?_, fun s c p q => ?_⟩
  · exact ⟨_, _, exec_explode c s, exec_setalpha c _ _, setAlphaWord_own_alpha c⟩
  · exact ⟨_, _, _, exec_setalpha c p s, exec_setalpha _ q _, exec_setalpha c q s, setAlphaWord_setAlphaWord c p q⟩

/-- R57: IMPLODE masks `alpha` just as SETALPHA does, and packs the other three channels back. -/
theorem setAlphaWord_eq_implodeWord (c al : Word) :
    setAlphaWord c al = implodeWord al ((chR c).setWidth 32) ((chG c).setWidth 32) ((chB c).setWidth 32) := by
  simp only [setAlphaWord_eq_pack, implodeWord_eq_pack, lo8_channel_zext]

/-- Settles O31: the two words are equal, and driving IMPLODE's discards what EXPLODE drove before. -/
theorem setAlphaEqualsImplodeOfExploded : Obligations.SetAlphaEqualsImplodeOfExploded := by
  unfold Obligations.SetAlphaEqualsImplodeOfExploded
  intro s c al
  refine ⟨_, _, _, exec_explode c s, exec_implode _ _ _ _ _, exec_setalpha c al s, ?_⟩
  rw [setAlphaWord_eq_implodeWord]
  rfl

end Sys2Proof.Machine
end

section
/-! PROOFS. Family 42_saturating_arithmetic.md: ADD, SUB and MUL (R59 to R70). Lane `k` of a word is a channel, an operation on
lanes acts on each of them alone, and two words are equal when their four lanes are; so each claim about words is one about
channels. -/

namespace Sys2Proof.Machine

open Sys2Proof.Safety

-- ---- The lanes of a word (R28, R59) ----

/-- The channel in lane `k` of a word, counted from the least significant byte as `byteOf` does (R28). -/
def lane (c : Word) (k : Nat) : Channel := c.extractLsb' (8 * k) 8

theorem chA_eq_lane (c : Word) : chA c = lane c 3 := rfl
theorem chR_eq_lane (c : Word) : chR c = lane c 2 := rfl
theorem chG_eq_lane (c : Word) : chG c = lane c 1 := rfl
theorem chB_eq_lane (c : Word) : chB c = lane c 0 := rfl

theorem lane_toNat (c : Word) (k : Nat) : (lane c k).toNat = byteOf c k := by
  rw [lane, BitVec.extractLsb'_toNat, Nat.shiftRight_eq_div_pow, Nat.pow_mul]
  rfl

theorem lane_eq_of_byteOf {p q : Word} {k j : Nat} (h : byteOf p k = byteOf q j) : lane p k = lane q j :=
  BitVec.eq_of_toNat_eq (by rw [lane_toNat, lane_toNat, h])

theorem forall_lt_four_iff {P : Nat → Prop} : (∀ k < 4, P k) ↔ P 3 ∧ P 2 ∧ P 1 ∧ P 0 := by
  refine ⟨fun h => ⟨h 3 (by decide), h 2 (by decide), h 1 (by decide), h 0 (by decide)⟩, fun h k hk => ?_⟩
  obtain ⟨h3, h2, h1, h0⟩ := h
  match k, hk with
  | 0, _ => exact h0
  | 1, _ => exact h1
  | 2, _ => exact h2
  | 3, _ => exact h3

/-- R59: lane `k` of a result is the operation on the operands' lanes `k`. -/
theorem lane_lanes (f : Channel → Channel → Channel) (p q : Word) :
    ∀ k < 4, lane (lanes f p q) k = f (lane p k) (lane q k) :=
  forall_lt_four_iff.2 ⟨chA_lanes f p q, chR_lanes f p q, chG_lanes f p q, chB_lanes f p q⟩

theorem byteOf_lanes (f : Channel → Channel → Channel) (p q : Word) :
    ∀ k < 4, byteOf (lanes f p q) k = (f (lane p k) (lane q k)).toNat := by
  intro k hk
  rw [← lane_toNat, lane_lanes f p q k hk]

theorem eq_iff_lane_eq {c d : Word} : c = d ↔ ∀ k < 4, lane c k = lane d k := by
  refine ⟨fun h _ _ => h ▸ rfl, fun h => ?_⟩
  obtain ⟨ha, hr, hg, hb⟩ := forall_lt_four_iff.1 h
  rw [← pack_fields c, ← pack_fields d, chA_eq_lane, chR_eq_lane, chG_eq_lane, chB_eq_lane, ha, hr, hg, hb]
  rfl

theorem lanes_eq_iff {f : Channel → Channel → Channel} {p q c : Word} :
    lanes f p q = c ↔ ∀ k < 4, f (lane p k) (lane q k) = lane c k := by
  rw [eq_iff_lane_eq]
  exact forall₂_congr fun k hk => by rw [lane_lanes f p q k hk]

theorem lane_zero (k : Nat) : lane 0#32 k = 0#8 := BitVec.extractLsb'_zero

theorem lane_max : ∀ k < 4, lane 0xFFFFFFFF#32 k = 255#8 := by
  decide

theorem lane_not (c : Word) : ∀ k < 4, lane (~~~c) k = ~~~lane c k := by
  intro k hk
  apply BitVec.eq_of_getLsbD_eq
  intro i hi
  have hbit : 8 * k + i < 32 := by omega
  simp only [lane, BitVec.getLsbD_extractLsb', BitVec.getLsbD_not, hi, hbit, decide_true, Bool.true_and]

theorem word_toNat_eq_ofBytes (c : Word) : c.toNat = ofBytes (byteOf c 3) (byteOf c 2) (byteOf c 1) (byteOf c 0) := by
  rw [← chA_eq_byteOf, ← chR_eq_byteOf, ← chG_eq_byteOf, ← chB_eq_byteOf, ← pack_eq_ofBytes, pack_fields]

-- ---- One lane (R61 to R65, R69) ----

theorem add8_eq_iff {u v w : Channel} : add8 u v = w ↔ min (u.toNat + v.toNat) 255 = w.toNat := by
  rw [← BitVec.toNat_inj, add8_toNat]

theorem sub8_eq_iff {u v w : Channel} : sub8 u v = w ↔ u.toNat - v.toNat = w.toNat := by
  rw [← BitVec.toNat_inj, sub8_toNat]

theorem mul8_eq_iff {u v w : Channel} : mul8 u v = w ↔ u.toNat * v.toNat / 255 = w.toNat := by
  rw [← BitVec.toNat_inj, mul8_toNat]

theorem add8_comm (u v : Channel) : add8 u v = add8 v u := by
  rw [add8_eq_iff, add8_toNat, Nat.add_comm]

theorem mul8_comm (u v : Channel) : mul8 u v = mul8 v u := by
  rw [mul8_eq_iff, mul8_toNat, Nat.mul_comm]

/-- R67: of two different channels one difference is positive, and the other stops at 0. -/
theorem sub8_eq_sub8_swap_iff (u v : Channel) : sub8 u v = sub8 v u ↔ u = v := by
  rw [sub8_eq_iff, sub8_toNat, ← BitVec.toNat_inj]
  omega

theorem sub8_eq_zero_iff (u v : Channel) : sub8 u v = 0#8 ↔ u.toNat ≤ v.toNat := by
  rw [sub8_eq_iff]
  exact Nat.sub_eq_zero_iff_le

theorem add8_zero (u : Channel) : add8 u 0#8 = u :=
  add8_eq_iff.2 (Nat.min_eq_left (Nat.le_of_lt_succ u.isLt))

theorem add8_max (u : Channel) : add8 u 255#8 = 255#8 :=
  add8_eq_iff.2 (Nat.min_eq_right (Nat.le_add_left 255 u.toNat))

theorem sub8_zero (u : Channel) : sub8 u 0#8 = u := sub8_eq_iff.2 (Nat.sub_zero u.toNat)

theorem sub8_self (u : Channel) : sub8 u u = 0#8 := (sub8_eq_zero_iff u u).2 (Nat.le_refl _)

theorem zero_sub8 (u : Channel) : sub8 0#8 u = 0#8 := (sub8_eq_zero_iff _ u).2 (Nat.zero_le _)

theorem sub8_max (u : Channel) : sub8 u 255#8 = 0#8 := (sub8_eq_zero_iff u _).2 (Nat.le_of_lt_succ u.isLt)

theorem max_sub8 (u : Channel) : sub8 255#8 u = ~~~u := by
  rw [sub8_eq_iff, BitVec.toNat_not]
  rfl

theorem mul8_max (u : Channel) : mul8 u 255#8 = u :=
  mul8_eq_iff.2 (Nat.mul_div_cancel u.toNat (by decide))

theorem mul8_zero (u : Channel) : mul8 u 0#8 = 0#8 := mul8_eq_iff.2 (Nat.zero_div 255)

/-- R69: only 255 survives the division by 255. -/
theorem mul8_one (u : Channel) : mul8 u 1#8 = if u = 255#8 then 1#8 else 0#8 := by
  split
  next h => rw [h]; decide
  next h =>
    have hlt := u.isLt
    have hne : u.toNat ≠ 255 := fun e => h (BitVec.eq_of_toNat_eq e)
    rw [mul8_eq_iff, BitVec.toNat_ofNat, BitVec.toNat_ofNat]
    omega

theorem add8_assoc_toNat (u v w : Channel) :
    (add8 (add8 u v) w).toNat = min (u.toNat + v.toNat + w.toNat) 255 := by
  rw [add8_toNat, add8_toNat]
  omega

/-- R68: a sum that stops at 255 stays there, so the pair added first does not matter. -/
theorem add8_assoc (u v w : Channel) : add8 (add8 u v) w = add8 u (add8 v w) := by
  apply BitVec.eq_of_toNat_eq
  rw [add8_assoc_toNat, add8_toNat, add8_toNat]
  omega

theorem add8_sub8_toNat (u v : Channel) : (add8 (sub8 u v) v).toNat = max u.toNat v.toNat := by
  have hu := u.isLt
  have hv := v.isLt
  rw [add8_toNat, sub8_toNat]
  omega

theorem sub8_sub8_toNat (u v : Channel) : (sub8 u (sub8 u v)).toNat = min u.toNat v.toNat := by
  rw [sub8_toNat, sub8_toNat]
  omega

theorem sub8_add8_toNat (u v : Channel) : (sub8 (add8 u v) v).toNat = min u.toNat (255 - v.toNat) := by
  rw [sub8_toNat, add8_toNat]
  omega

/-- R68: SUB undoes ADD in a lane exactly when the sum has not saturated. -/
theorem sub8_add8_eq_iff (u v : Channel) : sub8 (add8 u v) v = u ↔ u.toNat + v.toNat ≤ 255 := by
  have hv := v.isLt
  rw [← BitVec.toNat_inj, sub8_add8_toNat]
  omega

theorem add8_mono {u u' v v' : Channel} (hu : u.toNat ≤ u'.toNat) (hv : v.toNat ≤ v'.toNat) :
    (add8 u v).toNat ≤ (add8 u' v').toNat := by
  rw [add8_toNat, add8_toNat]
  omega

/-- R69: SUB rises with the first operand and falls with the second. -/
theorem sub8_mono {u u' v v' : Channel} (hu : u.toNat ≤ u'.toNat) (hv : v'.toNat ≤ v.toNat) :
    (sub8 u v).toNat ≤ (sub8 u' v').toNat := by
  rw [sub8_toNat, sub8_toNat]
  omega

theorem mul8_mono {u u' v v' : Channel} (hu : u.toNat ≤ u'.toNat) (hv : v.toNat ≤ v'.toNat) :
    (mul8 u v).toNat ≤ (mul8 u' v').toNat := by
  rw [mul8_toNat, mul8_toNat]
  exact Nat.div_le_div_right (Nat.mul_le_mul hu hv)

/-- R69: the other factor over 255 is at most 1. -/
theorem mul8_le_left (u v : Channel) : (mul8 u v).toNat ≤ u.toNat := by
  have h := mul8_mono (Nat.le_refl u.toNat) (show v.toNat ≤ (255#8).toNat from Nat.le_of_lt_succ v.isLt)
  rwa [mul8_max] at h

theorem mul8_le_right (u v : Channel) : (mul8 u v).toNat ≤ v.toNat := mul8_comm u v ▸ mul8_le_left v u

/-- Settles O42: each identity and each monotonicity is a lemma on one lane. -/
theorem laneIdentities : Obligations.LaneIdentities := by
  unfold Obligations.LaneIdentities
  intro u v w
  refine ⟨add8_sub8_toNat u v, sub8_sub8_toNat u v, (sub8_add8_eq_iff u v).2, fun h => ?_,
    Nat.le_min.2 ⟨mul8_le_left u v, mul8_le_right u v⟩, mul8_max u, mul8_zero u, mul8_one u, fun h => ?_⟩
  · rw [sub8_add8_toNat]
    omega
  · have hw := Nat.le_refl w.toNat
    exact ⟨add8_mono h hw, add8_mono hw h, mul8_mono h hw, mul8_mono hw h, sub8_mono h hw, sub8_mono hw h⟩

theorem clamp_of_mem {n : Int} (h0 : 0 ≤ n) (h255 : n ≤ 255) : clamp n = n := by
  rw [clamp, max_eq_left h0, min_eq_left h255]

/-- R64: on channels, which are not negative, division toward zero is the floor. -/
theorem channel_product_tdiv (u v : Channel) :
    (chanInt u * chanInt v).tdiv 255 = ((u.toNat * v.toNat / 255 : Nat) : Int) := by
  rw [chanInt, chanInt, ← Int.natCast_mul]
  rfl

/-- Settles O38: the product is at most 65025, and 65025 over 255 is 255. -/
theorem mulClampNeverActs : Obligations.MulClampNeverActs := by
  unfold Obligations.MulClampNeverActs
  intro u v
  have hle : u.toNat * v.toNat / 255 ≤ 255 := Nat.div_le_div_right (channel_product_le u v)
  refine ⟨?_, mul8_toNat u v⟩
  rw [channel_product_tdiv]
  exact clamp_of_mem (Int.natCast_nonneg _) (by exact_mod_cast hle)

/-- R64, first form: 256 divides like 255 when the carry `t / 256` is added back. -/
theorem div_255_eq_shift {t : Nat} (h : t ≤ 65025) : t / 255 = (t + 1 + (t >>> 8)) >>> 8 := by
  simp only [Nat.shiftRight_eq_div_pow]
  omega

/-- R64, second form: `0x8081 * 255` is `2 ^ 23 + 127`, and the error stays below the next quotient up to 65025. -/
theorem div_255_eq_multiply_shift {t : Nat} (h : t ≤ 65025) : t / 255 = (t * 0x8081) >>> 23 := by
  rw [Nat.shiftRight_eq_div_pow]
  omega

/-- Settles O39: the two forms are facts about `t / 255`; 255 * 255 refutes `t >> 8`, and 1 * 128 rounding to nearest. -/
theorem mulFixedPointFormsAgree : Obligations.MulFixedPointFormsAgree := by
  unfold Obligations.MulFixedPointFormsAgree
  refine ⟨fun u v => ?_, ⟨255#8, 255#8, by decide⟩, ⟨1#8, 128#8, by decide⟩⟩
  have ht := channel_product_le u v
  rw [mul8_toNat]
  exact ⟨div_255_eq_shift ht, div_255_eq_multiply_shift ht⟩

-- ---- Each operation on words (R59 to R63) ----

/-- Settles O32: `lanes_add8_toNat` gives the value. -/
theorem addSaturatesAtMaximum : Obligations.AddSaturatesAtMaximum := by
  unfold Obligations.AddSaturatesAtMaximum
  intro s p q x2 x3
  refine ⟨rfl, _, exec_add p q s, drive_request s _, ?_⟩
  rw [drive_response, numbersOf_colorResponse, lanes_add8_toNat]

/-- R62: subtraction of naturals, which stops at 0, is the exact difference with its lower bound. -/
theorem lanes_sub8_toNat_eq_max (p q : Word) :
    (lanes sub8 p q).toNat = laneNumber (fun u v => (max ((u : Int) - (v : Int)) 0).toNat) p q := by
  refine lanes_eq_laneNumber sub8 _ (fun u v => ?_) p q
  rw [sub8_toNat]
  omega

/-- Settles O33: `lanes_sub8_toNat_eq_max` gives the value. -/
theorem subSaturatesAtZero : Obligations.SubSaturatesAtZero := by
  unfold Obligations.SubSaturatesAtZero
  intro s p q x2 x3
  refine ⟨rfl, _, exec_sub p q s, drive_request s _, ?_⟩
  rw [drive_response, numbersOf_colorResponse, lanes_sub8_toNat_eq_max]

/-- Settles O34: `lanes_mul8_toNat` gives the value. -/
theorem mulDividesByTwoFiftyFive : Obligations.MulDividesByTwoFiftyFive := by
  unfold Obligations.MulDividesByTwoFiftyFive
  intro s p q x2 x3
  refine ⟨rfl, _, exec_mul p q s, drive_request s _, ?_⟩
  rw [drive_response, numbersOf_colorResponse, lanes_mul8_toNat]

/-- Settles O36: the lanes of both results are the same operation on the same two channels. -/
theorem lanesAreIndependent : Obligations.LanesAreIndependent := by
  unfold Obligations.LanesAreIndependent
  intro F hF s s' p q p' q' k j hk hj hp hq
  obtain ⟨f, hf⟩ := exec_eq_lanes hF
  refine ⟨_, _, hf p q s, hf p' q' s', ?_⟩
  rw [drive_y0, drive_y0, colorResponse_y0, colorResponse_y0, byteOf_lanes f p q k hk, byteOf_lanes f p' q' j hj,
    lane_eq_of_byteOf hp, lane_eq_of_byteOf hq]

/-- Settles O37: each corner case holds in every lane. -/
theorem identityAndAbsorbingOperands : Obligations.IdentityAndAbsorbingOperands := by
  unfold Obligations.IdentityAndAbsorbingOperands
  intro s c
  refine ⟨_, _, _, _, _, _, _, _, _, _, _,
    exec_add c _ s, lanes_eq_iff.2 fun k hk => ?_,
    exec_add c _ s, lanes_eq_iff.2 fun k hk => ?_,
    exec_add c c s, ?_,
    exec_sub c _ s, lanes_eq_iff.2 fun k hk => ?_,
    exec_sub c c s, lanes_eq_iff.2 fun k hk => ?_,
    exec_sub _ c s, lanes_eq_iff.2 fun k hk => ?_,
    exec_sub c _ s, lanes_eq_iff.2 fun k hk => ?_,
    exec_sub _ c s, lanes_eq_iff.2 fun k hk => ?_,
    exec_mul c _ s, lanes_eq_iff.2 fun k hk => ?_,
    exec_mul c _ s, lanes_eq_iff.2 fun k hk => ?_,
    exec_mul c c s, lanes_mul8_toNat c c⟩
  · rw [lane_zero, add8_zero]
  · rw [lane_max k hk, add8_max]
  · rw [drive_y0, colorResponse_y0, lanes_add8_toNat]
    simp only [laneNumber, Nat.two_mul]
  · rw [lane_zero, sub8_zero]
  · rw [lane_zero, sub8_self]
  · rw [lane_zero, zero_sub8]
  · rw [lane_zero, lane_max k hk, sub8_max]
  · rw [lane_max k hk, lane_not c k hk, max_sub8]
  · rw [lane_max k hk, mul8_max]
  · rw [lane_zero, mul8_zero]

-- ---- Algebra on words (R67 to R69) ----

/-- Two results are equal when they are in every lane. -/
theorem lanes_eq_lanes_iff {f g : Channel → Channel → Channel} {p q p' q' : Word} :
    lanes f p q = lanes g p' q' ↔ ∀ k < 4, f (lane p k) (lane q k) = g (lane p' k) (lane q' k) := by
  rw [lanes_eq_iff]
  exact forall₂_congr fun k hk => by rw [lane_lanes g p' q' k hk]

theorem lanes_add8_comm (p q : Word) : lanes add8 p q = lanes add8 q p :=
  lanes_eq_lanes_iff.2 fun _ _ => add8_comm _ _

theorem lanes_mul8_comm (p q : Word) : lanes mul8 p q = lanes mul8 q p :=
  lanes_eq_lanes_iff.2 fun _ _ => mul8_comm _ _

theorem lanes_sub8_eq_swap_iff (p q : Word) : lanes sub8 p q = lanes sub8 q p ↔ p = q := by
  rw [lanes_eq_lanes_iff, eq_iff_lane_eq]
  exact forall₂_congr fun k _ => sub8_eq_sub8_swap_iff _ _

theorem lanes_sub8_eq_zero_iff (p q : Word) :
    lanes sub8 p q = 0#32 ↔ ∀ k < 4, (lane p k).toNat ≤ (lane q k).toNat := by
  rw [lanes_eq_iff]
  exact forall₂_congr fun k _ => by rw [lane_zero, sub8_eq_zero_iff]

/-- Settles O40: a lane operation is commutative on words when it is on channels. -/
theorem addMulCommuteSubDoesNot : Obligations.AddMulCommuteSubDoesNot := by
  unfold Obligations.AddMulCommuteSubDoesNot
  refine ⟨fun s p q => ?_, fun s p q => ?_, fun s p q => ?_⟩
  · rw [exec_add, exec_add, lanes_add8_comm]
  · rw [exec_mul, exec_mul, lanes_mul8_comm]
  · refine ⟨_, _, exec_sub p q s, exec_sub q p s, lanes_sub8_eq_swap_iff p q, fun h => ?_⟩
    exact h ▸ (lanes_sub8_eq_zero_iff p p).2 fun _ _ => Nat.le_refl _

theorem lanes_add8_assoc (p q w : Word) : lanes add8 (lanes add8 p q) w = lanes add8 p (lanes add8 q w) :=
  lanes_eq_lanes_iff.2 fun k hk => by rw [lane_lanes add8 p q k hk, lane_lanes add8 q w k hk, add8_assoc]

theorem byteOf_add8_add8 (p q w : Word) :
    ∀ k < 4, byteOf (lanes add8 (lanes add8 p q) w) k = min (byteOf p k + byteOf q k + byteOf w k) 255 := by
  intro k hk
  rw [byteOf_lanes add8 _ w k hk, lane_lanes add8 p q k hk, add8_assoc_toNat, lane_toNat, lane_toNat, lane_toNat]

theorem lanes_sub8_add8_eq_iff (p q : Word) :
    lanes sub8 (lanes add8 p q) q = p ↔ ∀ k < 4, (lane p k).toNat + (lane q k).toNat ≤ 255 := by
  rw [lanes_eq_iff]
  exact forall₂_congr fun k hk => by rw [lane_lanes add8 p q k hk, sub8_add8_eq_iff]

/-- R70: a sum of channels is never negative, so only 255 bounds it. -/
theorem noLaneClamps_add_iff (p q : Word) :
    NoLaneClamps (fun u v => u + v) p q ↔ ∀ k < 4, (lane p k).toNat + (lane q k).toNat ≤ 255 := by
  refine forall₂_congr fun k _ => ?_
  simp only [lane_toNat]
  omega

/-- R70: a difference of channels is never above 255, so only 0 bounds it. -/
theorem noLaneClamps_sub_iff (p q : Word) :
    NoLaneClamps (fun u v => u - v) p q ↔ ∀ k < 4, (lane q k).toNat ≤ (lane p k).toNat := by
  refine forall₂_congr fun k _ => ?_
  have hp := byteOf_lt p k
  simp only [lane_toNat]
  omega

/-- R68: MUL truncates after each product, so the pair multiplied first matters. -/
theorem lanes_mul8_not_assoc :
    lanes mul8 (lanes mul8 0x02020202#32 0x81818181#32) 0xFEFEFEFE#32 = 0x00000000#32 ∧
    lanes mul8 0x02020202#32 (lanes mul8 0x81818181#32 0xFEFEFEFE#32) = 0x01010101#32 := by
  decide

/-- R68: each of two products truncates to 0, the product of the sum does not. -/
theorem lanes_mul8_add8_truncates :
    lanes mul8 0x01010101#32 (lanes add8 0x7F7F7F7F#32 0x80808080#32) = 0x01010101#32 ∧
    lanes add8 (lanes mul8 0x01010101#32 0x7F7F7F7F#32) (lanes mul8 0x01010101#32 0x80808080#32) = 0#32 := by
  decide

/-- R68: a sum that saturates before the product, and one that saturates after it. -/
theorem lanes_mul8_add8_saturates :
    lanes mul8 0x80808080#32 (lanes add8 0xFFFFFFFF#32 0xFFFFFFFF#32) = 0x80808080#32 ∧
    lanes add8 (lanes mul8 0x80808080#32 0xFFFFFFFF#32) (lanes mul8 0x80808080#32 0xFFFFFFFF#32) = 0xFFFFFFFF#32 := by
  decide

/-- Settles O41: associativity and the undoing of ADD hold lane by lane; the three counterexamples are the rule's own words. -/
theorem addAssociativeMulNot : Obligations.AddAssociativeMulNot := by
  unfold Obligations.AddAssociativeMulNot
  refine ⟨fun s p q w => ?_, fun s => ?_, by decide, fun s p q => ?_, fun s => ?_, fun s => ?_⟩
  · refine ⟨_, _, _, _, exec_add p q s, exec_add _ w s, exec_add q w s, exec_add p _ s, lanes_add8_assoc p q w, ?_⟩
    have hk := byteOf_add8_add8 p q w
    rw [drive_y0, drive_y0, colorResponse_y0, colorResponse_y0, word_toNat_eq_ofBytes, hk 3 (by decide), hk 2 (by decide),
      hk 1 (by decide), hk 0 (by decide)]
  · exact ⟨_, _, _, _, exec_mul _ _ s, exec_mul _ _ s, exec_mul _ _ s, exec_mul _ _ s, lanes_mul8_not_assoc⟩
  · exact ⟨_, _, exec_add p q s, exec_sub _ q s, (lanes_sub8_add8_eq_iff p q).trans (noLaneClamps_add_iff p q).symm⟩
  · exact ⟨_, _, _, _, _, exec_add _ _ s, exec_mul _ _ s, exec_mul _ _ s, exec_mul _ _ s, exec_add _ _ s,
      lanes_mul8_add8_truncates⟩
  · exact ⟨_, _, _, _, exec_add _ _ s, exec_mul _ _ s, exec_mul _ _ s, exec_add _ _ s, lanes_mul8_add8_saturates⟩

/-- R69: two operations on lanes in a row are one, here the maximum and then the minimum. -/
theorem lanes_add8_sub8_toNat (p q : Word) : (lanes add8 (lanes sub8 p q) q).toNat = laneNumber max p q := by
  rw [← lanes_eq_laneNumber _ max add8_sub8_toNat]
  exact congrArg _ (lanes_eq_lanes_iff.2 fun k hk => by rw [lane_lanes sub8 p q k hk])

theorem lanes_sub8_sub8_toNat (p q : Word) : (lanes sub8 p (lanes sub8 p q)).toNat = laneNumber min p q := by
  rw [← lanes_eq_laneNumber _ min sub8_sub8_toNat]
  exact congrArg _ (lanes_eq_lanes_iff.2 fun k hk => by rw [lane_lanes sub8 p q k hk])

/-- Settles O43: `lanes_add8_sub8_toNat` and `lanes_sub8_sub8_toNat`, for the words the result ports carry. -/
theorem addSubGiveMaxAndMin : Obligations.AddSubGiveMaxAndMin := by
  unfold Obligations.AddSubGiveMaxAndMin
  intro s p q
  exact ⟨_, _, _, exec_sub p q s, exec_add _ q _, exec_sub p _ _, lanes_add8_sub8_toNat p q, lanes_sub8_sub8_toNat p q⟩

-- ---- Plain 32-bit arithmetic (R70) ----

/-- Sums of words are equal when the exact sums of their bytes are, lane by lane. -/
theorem add_eq_add_of_lanes {a b c d : Word}
    (h : ∀ k < 4, (lane a k).toNat + (lane b k).toNat = (lane c k).toNat + (lane d k).toNat) : a + b = c + d := by
  obtain ⟨h3, h2, h1, h0⟩ := forall_lt_four_iff.1 h
  have hsum : a.toNat + b.toNat = c.toNat + d.toNat := by
    simp only [lane_toNat] at h3 h2 h1 h0
    rw [word_toNat_eq_ofBytes a, word_toNat_eq_ofBytes b, word_toNat_eq_ofBytes c, word_toNat_eq_ofBytes d]
    simp only [ofBytes]
    omega
  apply BitVec.eq_of_toNat_eq
  rw [BitVec.toNat_add, BitVec.toNat_add, hsum]

/-- What ADD's clamps cut off a plain sum is a word of its own: lane by lane `u - (255 - v)`. -/
theorem add_eq_lanes_add8_add_excess (p q : Word) : p + q = lanes add8 p q + lanes sub8 p (~~~q) := by
  refine add_eq_add_of_lanes fun k hk => ?_
  have hq := (lane q k).isLt
  rw [lane_lanes add8 p q k hk, lane_lanes sub8 p _ k hk, lane_not q k hk, add8_toNat, sub8_toNat, BitVec.toNat_not]
  omega

/-- What SUB's clamps add to a plain difference is the difference of the exchanged operands. -/
theorem lanes_sub8_add (p q : Word) : lanes sub8 p q + q = p + lanes sub8 q p := by
  refine add_eq_add_of_lanes fun k hk => ?_
  rw [lane_lanes sub8 p q k hk, lane_lanes sub8 q p k hk, sub8_toNat, sub8_toNat]
  omega

theorem lanes_add8_eq_add_iff (p q : Word) :
    lanes add8 p q = p + q ↔ ∀ k < 4, (lane p k).toNat + (lane q k).toNat ≤ 255 := by
  rw [add_eq_lanes_add8_add_excess, left_eq_add]
  refine (lanes_sub8_eq_zero_iff p (~~~q)).trans (forall₂_congr fun k hk => ?_)
  have hq := (lane q k).isLt
  rw [lane_not q k hk, BitVec.toNat_not]
  omega

theorem lanes_sub8_eq_sub_iff (p q : Word) :
    lanes sub8 p q = p - q ↔ ∀ k < 4, (lane q k).toNat ≤ (lane p k).toNat := by
  rw [eq_sub_iff_add_eq, lanes_sub8_add, add_eq_left]
  exact lanes_sub8_eq_zero_iff q p

/-- Settles O44: plain arithmetic differs by a word of excess, which is 0 exactly when no lane clamps. -/
theorem plainArithmeticOnlyWithoutClamping : Obligations.PlainArithmeticOnlyWithoutClamping := by
  unfold Obligations.PlainArithmeticOnlyWithoutClamping
  refine ⟨fun s p q => ?_, by decide, fun s => ?_⟩
  · exact ⟨_, _, exec_add p q s, exec_sub p q s, (lanes_add8_eq_add_iff p q).trans (noLaneClamps_add_iff p q).symm,
      (lanes_sub8_eq_sub_iff p q).trans (noLaneClamps_sub_iff p q).symm⟩
  · exact ⟨_, _, exec_add _ _ s, rfl, exec_sub _ _ s, rfl⟩

end Sys2Proof.Machine
end

section
/-! PROOFS. Family 60_exceptions.md: every defined request is answered and the reserved code is refused (R42, R73, R76); a
reset keeps nothing of the requests in flight (R84, R86). -/

namespace Sys2Proof.Machine

/-- R42, R76: whatever the operand ports carry, a step with `op = 7` on the input ports is refused. -/
theorem step_reserved {s : State} (h : s.op = 7#3) : step s = .refused .reservedOp := by
  have hdec : decode s.request = .reserved := by
    rw [← opcode_eq_seven_iff, decode_opcode, request_op, h]
  rw [step, hdec, exec_reserved]

/-- R73: whatever the ports carry, a step with a defined request on the input ports completes. -/
theorem step_completes {s : State} (h : s.op ≠ 7#3) : ∃ t, step s = .next t := by
  obtain ⟨y, hy, _⟩ := exec_decode_numericResponse (r := s.request) h
  exact ⟨s.drive y, hy s⟩

/-- Settles O9: the instruction of a defined request drives a response in every state, and `op = 7` decodes to the reserved
instruction. -/
theorem stepAnswersExactlyDefinedRequests : Obligations.StepAnswersExactlyDefinedRequests := by
  unfold Obligations.StepAnswersExactlyDefinedRequests
  exact fun _ => ⟨step_completes, step_reserved⟩

/-- R86: a reset empties every stage, so of the requests in flight only the number of stages is left. -/
theorem pipeReset_eq (p : Pipe) :
    pipeReset p = ⟨List.replicate p.inFlight.length none, startupResponse p.cycle, p.cycle + 1⟩ := by
  rw [pipeReset, List.map_const']

/-- Settles O55: the two units are equal after the reset, so they run alike. -/
theorem resetDiscardsRequestsInFlight : Obligations.ResetDiscardsRequestsInFlight := by
  unfold Obligations.ResetDiscardsRequestsInFlight
  intro p p' cycles hlen hcycle
  rw [pipeReset_eq, pipeReset_eq, hlen, hcycle]

end Sys2Proof.Machine
end

section
/-! PROOFS. Family 70_reset_and_hazards.md: the first request (R87), requests back to back (R89), and an implementation with
`LATENCY` cycles between a request and its response (R86, R90, R92). The stages and the cycles to come are one queue,
`p.inFlight ++ cycles`: each cycle takes its head and shows the response to it. -/

namespace Sys2Proof.Machine

open Sys2Proof.Safety

-- ---- One cycle of a pipelined unit ----

/-- R42: a cycle in which the reserved code is presented is refused, whatever is in flight. -/
theorem pipeTick_reserved (p : Pipe) {r : Request} (h : r.op = 7#3) : pipeTick p (some r) = .refused .reservedOp := by
  simp only [pipeTick, step_present_reserved h]

/-- Everything a completed cycle can do: what it presents is a defined request or none, and the stages advance. -/
theorem pipeTick_eq_next_iff {p p' : Pipe} {c : Option Request} :
    pipeTick p c = .next p' ↔ (∀ r, c = some r → r.defined) ∧ p' = pipeAdvance p c := by
  constructor
  · intro h
    have hc : ∀ r, c = some r → r.defined := by
      rintro r rfl hop
      rw [pipeTick_reserved p hop] at h
      cases h
    rw [pipeTick_next p c hc] at h
    cases h
    exact ⟨hc, rfl⟩
  · rintro ⟨hc, rfl⟩
    exact pipeTick_next p c hc

/-- A stage that holds a defined request gives the response to it. -/
theorem respond_eq_emitted {r : Request} (h : r.defined) (cycle : Nat) : respond r = some (emitted cycle (some r)) := by
  obtain ⟨y, hy, _⟩ := step_present_defined h
  simp only [emitted, Option.bind_some, hy]

/-- R86, R90: the oldest stage leaves, the presented one enters last, and the result ports show what the oldest gives. -/
theorem pipeAdvance_queue (p : Pipe) (c : Option Request) :
    ∃ oldest, p.inFlight ++ [c] = oldest :: (pipeAdvance p c).inFlight ∧
      (pipeAdvance p c).out = emitted p.cycle oldest := by
  obtain ⟨oldest, rest, hqueue, hadv⟩ := pipeAdvance_spec p c
  rw [hadv]
  exact ⟨oldest, hqueue, rfl⟩

-- ---- The invariant ----

/-- A unit all of whose stages are empty is legal. -/
theorem pipeLegal_of_empty {latency : Nat} {p : Pipe} (h : p.inFlight = List.replicate latency none) :
    PipeLegal latency p := by
  refine ⟨by rw [h, List.length_replicate], fun q hq => ?_⟩
  rw [h] at hq
  cases List.eq_of_mem_replicate hq

/-- R86, R90: a completed cycle keeps a legal unit legal, and answers the oldest request. -/
theorem pipeTick_oldest {latency : Nat} {p p' : Pipe} {c : Option Request} (hp : PipeLegal latency p)
    (h : pipeTick p c = .next p') :
    PipeLegal latency p' ∧
      ∃ oldest, p.inFlight ++ [c] = oldest :: p'.inFlight ∧ ∀ q, oldest = some q → respond q = some p'.out := by
  obtain ⟨hc, rfl⟩ := pipeTick_eq_next_iff.1 h
  obtain ⟨oldest, hqueue, hout⟩ := pipeAdvance_queue p c
  have hdef : ∀ q, some q ∈ p.inFlight ++ [c] → q.defined := fun q hq =>
    (List.mem_append.1 hq).elim (hp.2 q) fun hq => hc q (List.mem_singleton.1 hq).symm
  rw [hqueue] at hdef
  refine ⟨⟨?_, fun q hq => hdef q (List.mem_cons_of_mem _ hq)⟩, oldest, hqueue, ?_⟩
  · have hlen := congrArg List.length hqueue
    rw [List.length_append, List.length_singleton, List.length_cons, Nat.add_right_cancel_iff] at hlen
    exact hlen ▸ hp.1
  · rintro q rfl
    rw [hout]
    exact respond_eq_emitted (hdef q List.mem_cons_self) p.cycle

/-- Settles O57: `pipeTick_next` for the completion, `pipeTick_oldest` for what a completed cycle leaves. -/
theorem pipelineCycleEmitsOldestRequest : Obligations.PipelineCycleEmitsOldestRequest := by
  unfold Obligations.PipelineCycleEmitsOldestRequest
  exact fun _ p c hp => ⟨fun hc => ⟨_, pipeTick_next p c hc⟩, fun _ h => pipeTick_oldest hp h⟩

/-- Settles O54: power-up and reset leave every stage empty, and a completed cycle keeps the invariant. -/
theorem pipelineStaysLegal : Obligations.PipelineStaysLegal := by
  unfold Obligations.PipelineStaysLegal
  refine ⟨fun _ => pipeLegal_of_empty rfl, fun _ _ _ _ hp h => (pipeTick_oldest hp h).1, fun latency p hp => ?_⟩
  apply pipeLegal_of_empty
  rw [pipeReset_eq, hp.1]

-- ---- Runs of cycles ----

/-- R86, R90: with defined requests in flight and to come, the `k`-th result of a run answers the `k`-th request of the queue
that the stages and the cycles make. -/
theorem pipeRun_answers_queue (cycles : List (Option Request)) {latency : Nat} {p : Pipe} (hp : PipeLegal latency p)
    (hcycles : ∀ r, some r ∈ cycles → r.defined) :
    ∃ p' ys, pipeRun p cycles = .next (p', ys) ∧ ys.length = cycles.length ∧
      ∀ k r, k < cycles.length → (p.inFlight ++ cycles)[k]? = some (some r) → ys[k]? = respond r := by
  induction cycles generalizing p with
  | nil => exact ⟨p, [], rfl, rfl, fun k _ hk => absurd hk (Nat.not_lt_zero k)⟩
  | cons c rest ih =>
    have htick := pipeTick_next p c fun r hr => hcycles r (hr ▸ List.mem_cons_self)
    obtain ⟨hp', oldest, hqueue, hout⟩ := pipeTick_oldest hp htick
    obtain ⟨p'', ys, hrun, hlen, hys⟩ := ih hp' fun r hr => hcycles r (List.mem_cons_of_mem c hr)
    refine ⟨p'', (pipeAdvance p c).out :: ys, ?_, ?_, ?_⟩
    · simp only [pipeRun, htick, hrun]
    · rw [List.length_cons, List.length_cons, hlen]
    · rw [List.append_cons, hqueue, List.cons_append]
      rintro (_ | k) r hk hr
      · exact (hout r (Option.some.inj hr)).symm
      · exact hys k r (Nat.lt_of_succ_lt_succ hk) hr

/-- Settles O53: the unit starts with `latency` empty stages, so the request of cycle `k` is at place `k + latency` of the
queue. -/
theorem pipelineAnswersInOrderAfterLatency : Obligations.PipelineAnswersInOrderAfterLatency := by
  unfold Obligations.PipelineAnswersInOrderAfterLatency
  intro latency p cycles hstart hcycles
  have hempty : p.inFlight = List.replicate latency none := by
    obtain rfl | ⟨old, hold, rfl⟩ := hstart
    · rfl
    · rw [pipeReset_eq, hold]
  have hp := pipeLegal_of_empty hempty
  obtain ⟨p', ys, hrun, hlen, hys⟩ := pipeRun_answers_queue cycles hp hcycles
  refine ⟨p', ys, hrun, hlen, fun k r hk hlt => hys (k + latency) r hlt ?_⟩
  rw [List.getElem?_append_right (hp.1 ▸ Nat.le_add_left latency k), hp.1, Nat.add_sub_cancel, hk]

/-- Settles O52: without a stage the request presented is itself the oldest one. -/
theorem latencyZeroIsCombinational : Obligations.LatencyZeroIsCombinational := by
  unfold Obligations.LatencyZeroIsCombinational
  refine ⟨fun p r hlen hd => ?_, fun p r hd => pipeTick_reserved p (not_not.1 hd)⟩
  have hnil : p.inFlight = [] := List.eq_nil_of_length_eq_zero hlen
  have htick := pipeTick_next p (some r) fun q hq => Option.some.inj hq ▸ hd
  obtain ⟨⟨hlen', _⟩, oldest, hqueue, hout⟩ := pipeTick_oldest (pipeLegal_of_empty (latency := 0) hnil) htick
  rw [hnil, List.nil_append, List.cons.injEq] at hqueue
  have hresp : respond r = some (pipeAdvance p (some r)).out := hout r hqueue.1.symm
  obtain ⟨y, hy, hpresent⟩ := step_present_defined hd
  refine ⟨_, htick, hresp, fun s => ?_, hlen'⟩
  rw [(hpresent s).1, drive_response, Option.some.inj (hy.symm.trans hresp)]

-- ---- The first request, and requests back to back ----

/-- Settles O45: the step on a presented request is the same over every state, the reset state included. -/
theorem firstRequestAnsweredLikeAnyOther : Obligations.FirstRequestAnsweredLikeAnyOther := by
  unfold Obligations.FirstRequestAnsweredLikeAnyOther
  intro s r
  rw [respond, step_present_eq s State.reset]

/-- R42: a list of requests is refused once one of them is, whatever the state and the requests before it. -/
theorem serve_refused {rs : List Request} (h : ∃ r ∈ rs, ¬ r.defined) (s : State) :
    serve s rs = .refused .reservedOp := by
  induction rs generalizing s with
  | nil => simp at h
  | cons r rest ih =>
    by_cases hr : r.defined
    · obtain ⟨t, hstep, _⟩ := step_present_respond hr s
      have hrest := ((List.exists_mem_cons_iff _ r rest).1 h).resolve_left (not_not.2 hr)
      simp only [serve, hstep, ih hrest t]
    · simp only [serve, step_present_reserved (not_not.1 hr) s]

/-- Settles O46: `serve_defined` for the responses, `serve_refused` for the refusal. -/
theorem backToBackRequestsIndependent : Obligations.BackToBackRequestsIndependent := by
  unfold Obligations.BackToBackRequestsIndependent
  exact fun s _ => ⟨fun h => serve_defined h s, fun h => serve_refused h s⟩

end Sys2Proof.Machine
end
